-- ==== Sys2Proof/Word.lean ====
section
/-! DEFINITION. The widths of the block's data path (spec/00_scope.md rule R10, rule R11). -/

namespace Sys2Proof

/-- The host data path, the command word and every host register are 32 bits (rule R10). -/
abbrev Word := BitVec 32

/-- The nozzle mask is exactly 128 bits (rule R10). -/
abbrev Mask := BitVec 128

/-- A byte of the nozzle mask (rule R36). -/
abbrev Byte := BitVec 8

end Sys2Proof
end

