-- ==== Sys2Proof/Config.lean ====
section
/-! DEFINITION. What an implementation of the block fixes (spec/00_scope.md rules R8 and R9), and the values the spec leaves
free in every cycle (rule R28, rule R250). -/

namespace Sys2Proof

/-- The homing direction, parameter HOME_DIR (rule R8, decision D17). -/
inductive Direction where
  | pos
  | neg
deriving DecidableEq, Repr

/-- The implementation parameters of rule R8, as they are written down. Delays count CLK cycles. A polarity is the physical
level (`true` = 1) of the pin while the logical line is asserted. Both
values in ns are whole numbers: DESIGN CHOICE (log 23), where the rule gives only their bounds. -/
structure Params where
  /-- T_CLK_NS: period of CLK in ns, a whole number (DESIGN CHOICE, log 23). -/
  tClkNs : Nat
  /-- BASE: byte address of the register window. -/
  base : Nat
  /-- T_PU1: power-up settle before the rails are enabled. -/
  tPu1 : Nat
  /-- T_PU2: power-up settle after the rails are enabled, before reset release. -/
  tPu2 : Nat
  /-- T_PU3: power-up settle after reset release, before READY. -/
  tPu3 : Nat
  /-- T_PD1: power-down settle after reset is asserted, before the rails are cut. -/
  tPd1 : Nat
  /-- T_PD2: power-down settle after the rails are cut, before OFF. -/
  tPd2 : Nat
  /-- FIRE_MIN_NS: minimum FIRE low width in ns, a whole number (DESIGN CHOICE, log 23). -/
  fireMinNs : Nat
  /-- T_FW: FIRE low extension. -/
  tFw : Nat
  /-- T_POLL: READY polling interval after each failed sample. -/
  tPoll : Nat
  /-- T_SU: data setup extension. -/
  tSu : Nat
  /-- T_HI: clock high extension. -/
  tHi : Nat
  /-- T_CSS: chip-select setup extension. -/
  tCss : Nat
  /-- T_CSH: chip-select hold extension. -/
  tCsh : Nat
  /-- T_MEN: settle delay after the motor driver is enabled. -/
  tMen : Nat
  /-- T_STH: step high extension. -/
  tSth : Nat
  /-- T_STL: step low extension. -/
  tStl : Nat
  /-- HOME_MAX_STEPS: homing step budget. -/
  homeMaxSteps : Nat
  /-- HOME_DIR: homing direction. -/
  homeDir : Direction
  /-- POL_RESET: level of pin HEAD_RESET_P while head reset is asserted. -/
  polReset : Bool
  /-- POL_RAIL1: level of pin RAIL1_P while rail 1 is enabled. -/
  polRail1 : Bool
  /-- POL_RAIL2: level of pin RAIL2_P while rail 2 is enabled. -/
  polRail2 : Bool
  /-- POL_MEN: level of pin MOTOR_EN_P while the motor driver is enabled. -/
  polMen : Bool
  /-- POL_DIRPOS: level of pin MOTOR_DIR_P for the positive direction. -/
  polDirPos : Bool
  /-- ENDSTOP_TRIG: level of input ENDSTOP that means "triggered". -/
  endstopTrig : Bool
deriving DecidableEq, Repr

/-- The delays of rule R8: each is a count of CLK cycles in 0 to 2^32-1. -/
def Params.delays (p : Params) : List Nat :=
  [p.tPu1, p.tPu2, p.tPu3, p.tPd1, p.tPd2, p.tFw, p.tPoll, p.tSu, p.tHi, p.tCss, p.tCsh, p.tMen, p.tSth, p.tStl]

/-- The constraints every configuration meets: rule R9, and rule R8's range of a delay. That each polarity is 0 or 1 is its type. -/
abbrev Params.Valid (p : Params) : Prop :=
  0 < p.tClkNs ∧
  1000 ≤ p.fireMinNs ∧ p.fireMinNs ≤ (p.tFw + 1) * p.tClkNs ∧
  1 ≤ p.homeMaxSteps ∧ p.homeMaxSteps ≤ 2 ^ 24 ∧
  p.base % 64 = 0 ∧
  ∀ d ∈ p.delays, d < 2 ^ 32

/-- A configuration: parameters that meet the constraints. Parameters that break one are no configuration (rule R9, entry S15):
no value of this type holds them (log 6). -/
structure Config extends Params where
  valid : toParams.Valid
deriving DecidableEq, Repr

/-- Read parameters as a configuration, or refuse them (rule R9). -/
def Config.ofParams? (p : Params) : Option Config :=
  if h : p.Valid then some ⟨p, h⟩ else none

/-- The test configuration TC of spec/95_test_vectors.md section V0. It is the spec's own choice for its examples and no claim
about real hardware (decision D39). `State.reset` carries it: DESIGN CHOICE (log 5). -/
def Config.tc : Config where
  tClkNs := 100
  base := 0x40000000
  tPu1 := 5
  tPu2 := 5
  tPu3 := 5
  tPd1 := 2
  tPd2 := 3
  fireMinNs := 1000
  tFw := 9
  tPoll := 9
  tSu := 0
  tHi := 0
  tCss := 0
  tCsh := 0
  tMen := 4
  tSth := 1
  tStl := 1
  homeMaxSteps := 10
  homeDir := .neg
  polReset := true
  polRail1 := true
  polRail2 := true
  polMen := true
  polDirPos := true
  endstopTrig := true
  valid := by decide

/-- The raw levels of the three input lines in one cycle (rule R23). -/
structure Pins where
  ready : Bool
  fault : Bool
  endstop : Bool
deriving DecidableEq, Repr, Inhabited

/-- FREE VALUE: the levels of the input lines in cycle number `n`, where nothing else says them (rule R28, log 3). -/
opaque Config.freePins : Nat → Pins

/-- FREE VALUE: what a host read returns in cycle number `n` if RST is asserted in it (rule R250, entry S2, log 4). -/
opaque Config.freeRead : Nat → Word

end Sys2Proof
end

