-- ==== Sys2Proof/Syntax.lean ====
section
/-! DEFINITION. The host commands, one constructor per row of spec/opcode_table.json (spec/30_encoding.md rules R81 to R89),
and the names of the outcomes decoding can have. -/

namespace Sys2Proof

/-- The commands (rule R1, rule R86). FIRE is three constructors, one per legal WAIT_MODE, as rule R89 splits it. A count is a
number, as in the assembler of rule R90; the range its field holds is `Instr.wf`. -/
inductive Instr where
  /-- POWER_UP (layout P). -/
  | powerUp
  /-- POWER_DOWN (layout P). -/
  | powerDown
  /-- FIRE with WAIT_MODE 0 (layout F). TIMEOUT is legal and not read (rule R95, rule R158(2)). -/
  | fireNone (timeout : Nat)
  /-- FIRE with WAIT_MODE 1, wait for READY = 1, at most `timeout` samples (layout F). -/
  | fireHigh (timeout : Nat)
  /-- FIRE with WAIT_MODE 2, wait for READY = 0, at most `timeout` samples (layout F). -/
  | fireLow (timeout : Nat)
  /-- ADVANCE by a signed step count; `keep` leaves the driver enabled (layout M). -/
  | advance (steps : Int) (keep : Bool)
  /-- HOME; `keep` leaves the driver enabled (layout H). -/
  | home (keep : Bool)
deriving DecidableEq, Repr

/-- The causes for which a command is rejected (rule R222). -/
inductive Reject where
  | illegalOpcode
  | reservedField
  | notPowered
deriving DecidableEq, Repr

end Sys2Proof
end

