-- ==== Sys2Proof/WellFormed.lean ====
section
/-! DEFINITION. Which command terms have a word: the operand ranges of spec/30_encoding.md rule R90. -/

namespace Sys2Proof

/-- TIMEOUT is a 16-bit unsigned field (rule R82, rule R90). -/
def timeoutOk (n : Nat) : Bool := n ≤ 65535

/-- STEPS is a 24-bit two's-complement field (rule R83, rule R90). -/
def stepsOk (s : Int) : Bool := -8388608 ≤ s && s ≤ 8388607

/-- Every operand lies in the range its field holds. An operand out of range is an assembly error (rule R90). -/
def Instr.wf : Instr → Bool
  | .powerUp => true
  | .powerDown => true
  | .fireNone timeout => timeoutOk timeout
  | .fireHigh timeout => timeoutOk timeout
  | .fireLow timeout => timeoutOk timeout
  | .advance steps _ => stepsOk steps
  | .home _ => true

end Sys2Proof
end

