-- ==== Sys2Proof/Decode.lean ====
section
/-! DEFINITION. Decoding, total over all 2^32 words (spec/30_encoding.md rule R88), and after it the encoder (rules R81 to R84). -/

namespace Sys2Proof

/-! ## Fields of a command word (rules R80 to R85) -/

/-- OPC = c[3:0] (rule R80). -/
def opcField (c : Word) : BitVec 4 := c.extractLsb' 0 4

/-- WAIT_MODE = c[5:4] (rule R82). -/
def waitModeField (c : Word) : BitVec 2 := c.extractLsb' 4 2

/-- TIMEOUT = c[31:16] (rule R82). -/
def timeoutField (c : Word) : BitVec 16 := c.extractLsb' 16 16

/-- KEEP = c[4] (rule R83, rule R84). -/
def keepField (c : Word) : Bool := c.getLsbD 4

/-- STEPS = c[31:8] (rule R83). -/
def stepsField (c : Word) : BitVec 24 := c.extractLsb' 8 24

/-! ## The decoder (rule R88) -/

/-- FIRE: the reserved bits [15:6] first, then WAIT_MODE (rule R88). -/
def decodeFire (c : Word) : Except Reject Instr :=
  if c.extractLsb' 6 10 ≠ 0 then .error .reservedField
  else match (waitModeField c).toNat with
    | 0 => .ok (.fireNone (timeoutField c).toNat)
    | 1 => .ok (.fireHigh (timeoutField c).toNat)
    | 2 => .ok (.fireLow (timeoutField c).toNat)
    | _ => .error .reservedField

/-- The decoder of rule R88: a command, or the code it is rejected with. NOT_POWERED is no decoding outcome: it is checked at
acceptance (rule R107). -/
def decode (c : Word) : Except Reject Instr :=
  match (opcField c).toNat with
  | 1 => if c.extractLsb' 4 28 ≠ 0 then .error .reservedField else .ok .powerUp
  | 2 => if c.extractLsb' 4 28 ≠ 0 then .error .reservedField else .ok .powerDown
  | 3 => decodeFire c
  | 4 => if c.extractLsb' 5 3 ≠ 0 then .error .reservedField
         else .ok (.advance (stepsField c).toInt (keepField c))
  | 5 => if c.extractLsb' 5 27 ≠ 0 then .error .reservedField else .ok (.home (keepField c))
  | _ => .error .illegalOpcode

/-- The decoder's answer for a row of spec/opcode_table.json: every bit at or above `nbits` is 0, and a number of more than 32
bits is no command word (rule R80, log 21). -/
def decodeTableWord (nbits w : Nat) : Option Instr :=
  let v := w % 2 ^ nbits
  if v < 2 ^ 32 then
    match decode (BitVec.ofNat 32 v) with
    | .ok i => some i
    | .error _ => none
  else none

/-! ## The encoder (rules R81 to R84) -/

/-- Layout P (rule R81). -/
def layoutP (opc : BitVec 4) : Word := 0#28 ++ opc

/-- Layout F (rule R82). -/
def layoutF (timeout : BitVec 16) (waitMode : BitVec 2) : Word := timeout ++ 0#10 ++ waitMode ++ 3#4

/-- Layout M (rule R83). -/
def layoutM (steps : BitVec 24) (keep : Bool) : Word := steps ++ 0#3 ++ BitVec.ofBool keep ++ 4#4

/-- Layout H (rule R84). -/
def layoutH (keep : Bool) : Word := 0#27 ++ BitVec.ofBool keep ++ 5#4

/-- The word of a command. Of a term that is not well-formed it keeps the low bits of each operand, and nothing is claimed for
it: such a term assembles to nothing (rule R90, log 16). -/
def encode : Instr → Word
  | .powerUp => layoutP 1
  | .powerDown => layoutP 2
  | .fireNone timeout => layoutF (BitVec.ofNat 16 timeout) 0
  | .fireHigh timeout => layoutF (BitVec.ofNat 16 timeout) 1
  | .fireLow timeout => layoutF (BitVec.ofNat 16 timeout) 2
  | .advance steps keep => layoutM (BitVec.ofInt 24 steps) keep
  | .home keep => layoutH keep

/-! ## Match and mask (rule R89) -/

/-- The match value of a command's row (rule R89). -/
def Instr.rowMatch : Instr → Word
  | .powerUp => 0x00000001
  | .powerDown => 0x00000002
  | .fireNone _ => 0x00000003
  | .fireHigh _ => 0x00000013
  | .fireLow _ => 0x00000023
  | .advance _ _ => 0x00000004
  | .home _ => 0x00000005

/-- The mask of a command's row (rule R89, with FIRE's three rows exact on [15:0]). -/
def Instr.rowMask : Instr → Word
  | .powerUp => 0xFFFFFFFF
  | .powerDown => 0xFFFFFFFF
  | .fireNone _ => 0x0000FFFF
  | .fireHigh _ => 0x0000FFFF
  | .fireLow _ => 0x0000FFFF
  | .advance _ _ => 0x000000EF
  | .home _ => 0xFFFFFFEF

end Sys2Proof
end

