-- ==== Sys2Proof/Machine/State.lean ====
section
/-! DEFINITION. The state of the block (spec/10_state.md, summary in rule R45), as plain data, its reset value (rule R251), and
the reasons a step can stop. -/

namespace Sys2Proof.Machine

/-! ## Output lines (rule R20) -/

/-- The eleven output lines (rule R20). -/
inductive Line where
  | sclk
  | sdata
  | csAN
  | csBN
  | fireN
  | rail1En
  | rail2En
  | headReset
  | motorEn
  | motorDir
  | motorStep
deriving DecidableEq, Repr

/-- The level of every output line: each is a register (rule R21). SCLK, SDATA, CS_A_N, CS_B_N, FIRE_N and MOTOR_STEP at their
physical level, the others at the logical level (rule R20). -/
structure Lines where
  sclk : Bool
  sdata : Bool
  csAN : Bool
  csBN : Bool
  fireN : Bool
  rail1En : Bool
  rail2En : Bool
  headReset : Bool
  motorEn : Bool
  motorDir : Bool
  motorStep : Bool
deriving DecidableEq, Repr

/-- The reset column of rule R20. -/
def Lines.reset : Lines where
  sclk := true
  sdata := false
  csAN := true
  csBN := true
  fireN := true
  rail1En := false
  rail2En := false
  headReset := true
  motorEn := false
  motorDir := false
  motorStep := false

/-! ## Power state (rule R25) -/

/-- PSTATE (rule R25). -/
inductive PState where
  | off
  | railsEnabling
  | ready
  | resetAsserting
deriving DecidableEq, Repr

/-! ## Sequencer position (rules R39, R40) -/

/-- ROUTINE: the running micro-routine (rule R39). -/
inductive Routine where
  | idle
  | powerUp
  | powerDown
  | fire
  | advance
  | home
deriving DecidableEq, Repr

/-- The two shift-register channels (rule R131). -/
inductive Channel where
  | a
  | b
deriving DecidableEq, Repr

/-- The micro-ops of POWER_UP that take a cycle of their own, in order (rule R172). -/
inductive PowerUpPc where
  | setRails
  | releaseReset
  | finish
deriving DecidableEq, Repr

/-- The micro-ops of POWER_DOWN (rule R180). -/
inductive PowerDownPc where
  | assertReset
  | cutRails
  | finish
deriving DecidableEq, Repr

/-- The micro-ops of FIRE, SHIFT_CHANNEL among them (rules R133, R147). `attempt` counts from 1. The stream index `k` stands for
the pseudocode's `byte` = k div 8 and `bit` = 7 - k mod 8 (rule R132, log 9). -/
inductive FirePc where
  | sampleReady (attempt : Nat)
  | selectLow (ch : Channel)
  | clockLow (ch : Channel) (k : Nat)
  | setData (ch : Channel) (k : Nat)
  | clockHigh (ch : Channel) (k : Nat)
  | selectHigh (ch : Channel)
  | strobeLow
  | strobeHigh
  | readBack
  | finish
deriving DecidableEq, Repr

/-- The micro-ops of ADVANCE (rule R193); `i` is the pulse index, from 1. -/
inductive AdvancePc where
  | setDir
  | enable
  | stepHigh (i : Nat)
  | stepLow (i : Nat)
  | disable
  | finish
deriving DecidableEq, Repr

/-- The micro-ops of HOME (rule R203); `i` is the pulse index, from 1. -/
inductive HomePc where
  | setDir
  | enable
  | stepHigh (i : Nat)
  | stepLow (i : Nat)
  | sampleEndstop (i : Nat)
  | disable
  | finish
deriving DecidableEq, Repr

/-- ROUTINE and UPC together: the next micro-op that takes a cycle of its own, in its routine (rules R39, R40, log 9). `idle` is
"no position". -/
inductive Upc where
  | idle
  | powerUp (p : PowerUpPc)
  | powerDown (p : PowerDownPc)
  | fire (p : FirePc)
  | advance (p : AdvancePc)
  | home (p : HomePc)
deriving DecidableEq, Repr

/-- ROUTINE, read off the position (rule R39). -/
def Upc.routine : Upc → Routine
  | .idle => .idle
  | .powerUp _ => .powerUp
  | .powerDown _ => .powerDown
  | .fire _ => .fire
  | .advance _ => .advance
  | .home _ => .home

/-- The routine-local accumulators (rule R44). -/
structure Acc where
  rbValid : Bool
  readyOk : Bool
  readyAfter : Bool
  faultAfter : Bool
  pulses : Nat
  hit : Bool
  noop : Bool
deriving DecidableEq, Repr

/-- All accumulators 0: what a routine starts from (log 8), and what the model holds at reset, where the spec says "unspecified"
(rule R44): DESIGN CHOICE (log 7). -/
def Acc.zero : Acc where
  rbValid := false
  readyOk := false
  readyAfter := false
  faultAfter := false
  pulses := 0
  hit := false
  noop := false

/-! ## The outside world (rules R7, R23, R24, R66) -/

/-- What the host does in a cycle: at most one access (rule R66(1)). `addr` is a byte address, `size` the number of bytes
(rule R13, rule R62). -/
inductive HostAccess where
  | quiet
  | read (addr : Nat) (size : Nat)
  | write (addr : Nat) (size : Nat) (value : Word)
deriving DecidableEq, Repr

/-- Everything that reaches the block from outside in one cycle: RST (rule R250), the host's access (rule R66), the levels of the
input lines (rule R23). -/
structure CycleInput where
  rst : Bool
  host : HostAccess
  pins : Pins
deriving DecidableEq, Repr

/-! ## The state -/

/-- The state of the block, rule R45's list, and four fields that are not state of the block: `cfg` (rule R8, log 5), and the
model's own `inputs` (log 2), `cycle` (log 3) and `readData` (log 17). -/
structure State where
  /-- The configuration; no step changes it (rule R8). -/
  cfg : Config
  /-- The output lines (rule R20). -/
  lines : Lines
  /-- PSTATE (rule R25). -/
  pstate : PState
  /-- STATUS.OVERRUN (rule R31). -/
  overrun : Bool
  /-- RESULT (rule R33). -/
  result : Word
  /-- STEPCOUNT (rule R35). -/
  stepcount : Word
  /-- MASK0 (rule R36). -/
  mask0 : Word
  /-- MASK1 (rule R36). -/
  mask1 : Word
  /-- MASK2 (rule R36). -/
  mask2 : Word
  /-- MASK3 (rule R36). -/
  mask3 : Word
  /-- ROUTINE and UPC with the loop indices (rules R39, R40). -/
  upc : Upc
  /-- WAITCNT: wait cycles still to run before the micro-op at `upc` (rules R40, R102, log 9). -/
  waitcnt : Nat
  /-- SHIFT_BUF (rule R41). -/
  shiftBuf : Mask
  /-- CMD_LATCH (rule R42). -/
  cmdLatch : Word
  /-- The routine-local accumulators (rule R44). -/
  acc : Acc
  /-- The coming cycles' inputs, soonest first (log 2). -/
  inputs : List CycleInput
  /-- Tells one free draw from another (log 3). -/
  cycle : Nat
  /-- What the host's read in the cycle just run returned (rule R112(b), log 17). -/
  readData : Option Word
deriving DecidableEq, Repr

/-- The reset state (rule R251) of the block built with configuration `c`. -/
def State.resetWith (c : Config) : State where
  cfg := c
  lines := Lines.reset
  pstate := .off
  overrun := false
  result := 0
  stepcount := 0
  mask0 := 0
  mask1 := 0
  mask2 := 0
  mask3 := 0
  upc := .idle
  waitcnt := 0
  shiftBuf := 0
  cmdLatch := 0
  acc := Acc.zero
  inputs := []
  cycle := 0
  readData := none

/-- The machine right after reset (rule R251). The spec's values hold for every configuration (`State.resetWith`); the one
carried here is the spec's test configuration TC: DESIGN CHOICE (log 5). -/
def State.reset : State := State.resetWith Config.tc

/-- The reasons the machine stops with a fault: none. "No condition in this system is fatal" (rule R228), and the block has no
trap (rule R231, log 15). -/
inductive Fault where
deriving DecidableEq, Repr

/-- The reasons a step is refused. -/
inductive Refusal where
  /-- An instruction that has no meaning yet; raised by an arm of `exec` only. Safe: the run stops. No arm raises it. -/
  | notModelled (mnemonic : String)
  /-- A host access in the window of a size other than 4 bytes; raised by `step`. "A host access of another size has no meaning
  in the model and is refused" (rule R62, entry S9). Safe: the run stops (log 12). -/
  | accessSize
deriving DecidableEq, Repr

end Sys2Proof.Machine
end

