-- ==== Sys2Proof/Machine/Operands.lean ====
section
/-! DEFINITION. Operand assembly: the fields of CMD_LATCH (spec/30_encoding.md rule R85), the nozzle mask's bits
(spec/10_state.md rule R36, spec/41_serial_link.md rule R132), the endstop test (rule R202), and the window's address decode
(spec/20_memory.md rules R60 and R61). -/

namespace Sys2Proof.Machine

/-! ## Operands of the latched command (rules R42, R85) -/

/-- timeout = zext_32(c[31:16]) (rule R85). -/
def State.latchTimeout (s : State) : Nat := (timeoutField s.cmdLatch).toNat

/-- The level the ready-wait awaits: 1 exactly when WAIT_MODE = 1 (rule R147). -/
def State.latchWant (s : State) : Bool := waitModeField s.cmdLatch == 1

/-- keep = c[4] (rule R85). -/
def State.latchKeep (s : State) : Bool := keepField s.cmdLatch

/-- steps = sext_32(c[31:8]) (rule R85). -/
def State.latchSteps (s : State) : Int := (stepsField s.cmdLatch).toInt

/-- n = abs(steps), an unbounded natural (rule R85, rule R197(2)). -/
def State.latchCount (s : State) : Nat := s.latchSteps.natAbs

/-- The logical direction of ADVANCE: 1 for a positive count (rules R85, R194). -/
def State.latchDir (s : State) : Bool := decide (0 < s.latchSteps)

/-- The logical direction of HOME (rule R203, decision D17). -/
def State.homeDirLevel (s : State) : Bool := s.cfg.homeDir == .pos

/-! ## The nozzle mask (rules R36, R41, R131, R132) -/

/-- MASK3 ++ MASK2 ++ MASK1 ++ MASK0 (rule R41). -/
def State.mask (s : State) : Mask := s.mask3 ++ s.mask2 ++ s.mask1 ++ s.mask0

/-- Nozzle n is bit 7 - (n mod 8) of byte n div 8 (rule R36), here in the 128-bit value of rule R41. -/
def nozzleBit (m : Mask) (n : Nat) : Bool := m.getLsbD (8 * (n / 8) + (7 - n % 8))

/-- The number of a channel: CHANNEL_A is 0, CHANNEL_B is 1 (rule R131). -/
def Channel.number : Channel → Nat
  | .a => 0
  | .b => 1

/-- Stream bit k of a channel (rule R132). -/
def streamBit (m : Mask) (ch : Channel) (k : Nat) : Bool :=
  m.getLsbD (8 * (8 * ch.number + k / 8) + (7 - k % 8))

/-- The chip select of a channel (rule R131). -/
def Channel.select : Channel → Line
  | .a => .csAN
  | .b => .csBN

/-! ## The endstop (rule R202) -/

/-- A sample means "triggered" exactly when it equals ENDSTOP_TRIG (rule R202). -/
def endstopTriggered (c : Config) (level : Bool) : Bool := level == c.endstopTrig

/-! ## Window addresses (rules R60, R61) -/

/-- The registers of the window: word indices 0 to 8 (rule R29), and the unmapped words 9 to 15 (rule R61). -/
inductive Reg where
  | cmd
  | status
  | result
  | stepcount
  | mask0
  | mask1
  | mask2
  | mask3
  | lines
  | unmapped
deriving DecidableEq, Repr

/-- word = offset[5:2] selects the register; offset[1:0] is not decoded (rules R29, R61, R63). -/
def regAtOffset (offset : Nat) : Reg :=
  match offset / 4 with
  | 0 => .cmd
  | 1 => .status
  | 2 => .result
  | 3 => .stepcount
  | 4 => .mask0
  | 5 => .mask1
  | 6 => .mask2
  | 7 => .mask3
  | 8 => .lines
  | _ => .unmapped

/-- The register at a byte address, if the address lies in the 64-byte window (rule R60). -/
def regAt (c : Config) (addr : Nat) : Option Reg :=
  if c.base ≤ addr ∧ addr < c.base + 64 then some (regAtOffset (addr - c.base)) else none

end Sys2Proof.Machine
end

