-- ==== Sys2Proof/Machine/Flags.lean ====
section
/-! DEFINITION. The status and result bits: STATUS (spec/10_state.md rule R31), RESULT (rules R33, R34), LINES (rule R37), the
error codes (spec/60_exceptions.md rules R221, R222) and the output pins' polarity (spec/00_scope.md rule R15). -/

namespace Sys2Proof.Machine

/-- ROUTINE (rule R39). -/
def State.routine (s : State) : Routine := s.upc.routine

/-- STATUS.BUSY: ROUTINE ≠ IDLE (rules R39, R43). -/
def State.busy (s : State) : Bool := s.routine != .idle

/-! ## RESULT (rules R33, R34, R222) -/

/-- RESULT.ERR of a rejection (rule R222). -/
def rejectCode : Reject → BitVec 3
  | .illegalOpcode => 1
  | .reservedField => 2
  | .notPowered => 3

/-- The fields of RESULT a completion names; those it does not name are 0 (rule R105(a)). -/
structure DoneFields where
  rbValid : Bool := false
  readyOk : Bool := false
  readyAfter : Bool := false
  faultAfter : Bool := false
  endstopHit : Bool := false
  noop : Bool := false
deriving DecidableEq, Repr

/-- The RESULT word of a completed command: ERR = 0, the named fields, and the two computed bits READY_TIMEOUT and
HOME_EXHAUSTED (rules R33, R34, R105(a)). -/
def doneResult (opc : BitVec 4) (f : DoneFields) : Word :=
  0#16
    ++ BitVec.ofBool (opc == 5 && !f.endstopHit)
    ++ BitVec.ofBool (f.rbValid && !f.readyOk)
    ++ BitVec.ofBool f.noop
    ++ BitVec.ofBool f.endstopHit
    ++ BitVec.ofBool f.faultAfter
    ++ BitVec.ofBool f.readyAfter
    ++ BitVec.ofBool f.readyOk
    ++ BitVec.ofBool f.rbValid
    ++ opc
    ++ 0#1
    ++ 0#3

/-- The RESULT word of a rejection: ERR = code, OPC = w[3:0], all else 0 (rule R221). -/
def rejectResult (w : Word) (r : Reject) : Word := 0#24 ++ opcField w ++ 0#1 ++ rejectCode r

/-- RESULT.ERR (rule R33). -/
def resultErr (r : Word) : BitVec 3 := r.extractLsb' 0 3

/-- RESULT.OPC (rule R33). -/
def resultOpc (r : Word) : BitVec 4 := r.extractLsb' 4 4

/-- RESULT.RB_VALID (rule R33). -/
def resultRbValid (r : Word) : Bool := r.getLsbD 8

/-- RESULT.READY_OK (rule R33). -/
def resultReadyOk (r : Word) : Bool := r.getLsbD 9

/-- RESULT.READY_AFTER (rule R33). -/
def resultReadyAfter (r : Word) : Bool := r.getLsbD 10

/-- RESULT.FAULT_AFTER (rule R33). -/
def resultFaultAfter (r : Word) : Bool := r.getLsbD 11

/-- RESULT.ENDSTOP_HIT (rule R33). -/
def resultEndstopHit (r : Word) : Bool := r.getLsbD 12

/-- RESULT.NOOP (rule R33). -/
def resultNoop (r : Word) : Bool := r.getLsbD 13

/-- RESULT.READY_TIMEOUT (rule R33). -/
def resultReadyTimeout (r : Word) : Bool := r.getLsbD 14

/-- RESULT.HOME_EXHAUSTED (rule R33). -/
def resultHomeExhausted (r : Word) : Bool := r.getLsbD 15

/-! ## STATUS (rule R31) -/

/-- The encoding of PSTATE (rule R25, decision D15). -/
def PState.code : PState → BitVec 2
  | .off => 0
  | .railsEnabling => 1
  | .ready => 2
  | .resetAsserting => 3

/-- The STATUS word a read returns in a cycle whose input levels are `p` (rule R31). -/
def State.statusWord (s : State) (p : Pins) : Word :=
  0#25 ++ BitVec.ofBool p.endstop ++ BitVec.ofBool p.fault ++ BitVec.ofBool p.ready
    ++ BitVec.ofBool s.overrun ++ BitVec.ofBool s.busy ++ s.pstate.code

/-! ## LINES (rule R37) and the output pins (rule R15) -/

/-- The LINES word (rule R37). -/
def Lines.word (l : Lines) : Word :=
  0#21 ++ BitVec.ofBool l.motorStep ++ BitVec.ofBool l.motorDir ++ BitVec.ofBool l.motorEn
    ++ BitVec.ofBool l.headReset ++ BitVec.ofBool l.rail2En ++ BitVec.ofBool l.rail1En
    ++ BitVec.ofBool l.fireN ++ BitVec.ofBool l.csBN ++ BitVec.ofBool l.csAN
    ++ BitVec.ofBool l.sdata ++ BitVec.ofBool l.sclk

/-- The level of one line. -/
def Lines.get (l : Lines) : Line → Bool
  | .sclk => l.sclk
  | .sdata => l.sdata
  | .csAN => l.csAN
  | .csBN => l.csBN
  | .fireN => l.fireN
  | .rail1En => l.rail1En
  | .rail2En => l.rail2En
  | .headReset => l.headReset
  | .motorEn => l.motorEn
  | .motorDir => l.motorDir
  | .motorStep => l.motorStep

/-- pin = POL if logical = 1 else 1 - POL (rule R15). -/
def pinLevel (pol logical : Bool) : Bool := if logical then pol else !pol

/-- The physical level of the pin of a line: the line itself where rule R20 gives the physical level, rule R15's polarity where
it gives the logical level. -/
def State.outputPin (s : State) : Line → Bool
  | .rail1En => pinLevel s.cfg.polRail1 s.lines.rail1En
  | .rail2En => pinLevel s.cfg.polRail2 s.lines.rail2En
  | .headReset => pinLevel s.cfg.polReset s.lines.headReset
  | .motorEn => pinLevel s.cfg.polMen s.lines.motorEn
  | .motorDir => pinLevel s.cfg.polDirPos s.lines.motorDir
  | l => s.lines.get l

end Sys2Proof.Machine
end

