-- ==== Sys2Proof/Machine/Ops.lean ====
section
/-! DEFINITION. The named operations every meaning is written over: the micro-op primitives (spec/40_sequencer.md rules R100 to
R106), accepting and rejecting a command (rule R107, spec/60_exceptions.md rule R221), the overrun (rule R109), the registers of
the window (spec/20_memory.md rule R65), the cycle's inputs, and RST (spec/70_reset_and_hazards.md rule R250). -/

namespace Sys2Proof.Machine

/-! ## The cycle's inputs (rules R28, R66) -/

/-- What reaches the block in this cycle: the soonest listed entry; after the list, RST low, no host access, and levels that are
a free draw (logs 2, 3). -/
def State.input (s : State) : CycleInput :=
  match s.inputs with
  | [] => { rst := false, host := .quiet, pins := Config.freePins s.cycle }
  | i :: _ => i

/-- The input levels of this cycle (rule R28). -/
def State.pins (s : State) : Pins := s.input.pins

/-! ## Micro-op primitives (rule R14) -/

/-- One line written, the others unchanged (rule R101). -/
def Lines.set (l : Lines) (line : Line) (v : Bool) : Lines :=
  match line with
  | .sclk => { l with sclk := v }
  | .sdata => { l with sdata := v }
  | .csAN => { l with csAN := v }
  | .csBN => { l with csBN := v }
  | .fireN => { l with fireN := v }
  | .rail1En => { l with rail1En := v }
  | .rail2En => { l with rail2En := v }
  | .headReset => { l with headReset := v }
  | .motorEn => { l with motorEn := v }
  | .motorDir => { l with motorDir := v }
  | .motorStep => { l with motorStep := v }

/-- set(line := v) (rule R101). -/
def State.drive (line : Line) (v : Bool) (s : State) : State := { s with lines := s.lines.set line v }

/-- The control flow after a micro-op: `n` cycles of wait, then the micro-op at `u` (rules R100, R102, R106, log 9). -/
def State.goto (u : Upc) (n : Nat) (s : State) : State := { s with upc := u, waitcnt := n }

/-- One cycle of a running wait (rule R102). -/
def State.waitCycle (s : State) : State := { s with waitcnt := s.waitcnt - 1 }

/-- done(fields), parts (a), (c) and (d) of rule R105: RESULT, the final power state, ROUTINE <- IDLE. -/
def State.complete (f : DoneFields) (p : PState) (s : State) : State :=
  { s with result := doneResult (opcField s.cmdLatch) f, pstate := p, upc := .idle, waitcnt := 0 }

/-- done(fields) of ADVANCE and HOME: part (b) of rule R105 too, STEPCOUNT <- pulses (rule R35). -/
def State.completeMotor (f : DoneFields) (s : State) : State :=
  { s.complete f s.pstate with stepcount := BitVec.ofNat 32 s.acc.pulses }

/-! ## A CMD write (rules R107, R109, R220, R221) -/

/-- A CMD write while busy: OVERRUN <- 1 and nothing else (rule R109). -/
def State.overrunWrite (s : State) : State := { s with overrun := true }

/-- The block's one synchronous error: the rejection of a command (rules R220, R221, R231). It writes RESULT only. -/
def State.rejectWith (w : Word) (r : Reject) (s : State) : State := { s with result := rejectResult w r }

/-- Accept the command word `w`: latch it and start its routine at `u` after `n` wait cycles, with the accumulators as its
pseudocode first assigns them (rules R107, R42, log 8). -/
def State.accept (w : Word) (u : Upc) (n : Nat) (a : Acc) (s : State) : State :=
  { s with cmdLatch := w, upc := u, waitcnt := n, acc := a }

/-! ## Registers of the window (rules R29 to R37, R61, R65) -/

/-- What a read of a register returns, from the state at the start of the cycle and the cycle's input levels
(rules R29, R30, R31, R61, R66(2)). Reads have no side effect (rule R65(a)). -/
def State.readReg (s : State) : Reg → Word
  | .cmd => 0
  | .status => s.statusWord s.pins
  | .result => s.result
  | .stepcount => s.stepcount
  | .mask0 => s.mask0
  | .mask1 => s.mask1
  | .mask2 => s.mask2
  | .mask3 => s.mask3
  | .lines => s.lines.word
  | .unmapped => 0

/-- What a write of `v` to a register other than CMD does (rules R32, R36, R65). -/
def State.writeReg (r : Reg) (v : Word) (s : State) : State :=
  match r with
  | .status => if v.getLsbD 3 then { s with overrun := false } else s
  | .mask0 => { s with mask0 := v }
  | .mask1 => { s with mask1 := v }
  | .mask2 => { s with mask2 := v }
  | .mask3 => { s with mask3 := v }
  | .cmd => s
  | .result => s
  | .stepcount => s
  | .lines => s
  | .unmapped => s

/-- The host's access of a cycle, as the block's port sees it: none if the host makes none or its address lies outside the
window (rule R60). -/
def State.accessReg (s : State) : HostAccess → Option Reg
  | .quiet => none
  | .read addr _ => regAt s.cfg addr
  | .write addr _ _ => regAt s.cfg addr

/-- Every access in the window is a full 32-bit word (rule R62). -/
def HostAccess.sizeOk : HostAccess → Bool
  | .quiet => true
  | .read _ size => size == 4
  | .write _ size _ => size == 4

/-- The access of this cycle has a meaning: outside the window it does not reach the block, inside it is 4 bytes
(rules R60, R62). -/
def State.accessOk (s : State) : Bool :=
  match s.accessReg s.input.host with
  | none => true
  | some _ => s.input.host.sizeOk

/-- What the host's read of this cycle returns: the register at the start of the cycle (rule R66(2)), a free draw if RST is
asserted (rule R250). -/
def State.hostReadData (s : State) : Option Word :=
  match s.input.host with
  | .read addr _ =>
    match regAt s.cfg addr with
    | none => none
    | some r => some (if s.input.rst then Config.freeRead s.cycle else s.readReg r)
  | _ => none

/-! ## The end of a cycle (rules R66, R250) -/

/-- The state at the end of the cycle that began in `s`, when the block's registers end it as in `t`: the cycle's inputs are
used up and the host has its read data. -/
def State.endCycle (s t : State) : State :=
  { t with inputs := s.inputs.tail, cycle := s.cycle + 1, readData := s.hostReadData }

/-- The end of a cycle with RST asserted: every state element takes its reset value, a routine in progress is abandoned, a host
write is ignored (rules R250, R251). -/
def State.resetCycle (s : State) : State := s.endCycle (State.resetWith s.cfg)

end Sys2Proof.Machine
end

