-- ==== Sys2Proof/Machine/Fire.lean ====
section
/-! DEFINITION. FIRE: its acceptance (spec/40_sequencer.md rule R107, spec/60_exceptions.md rule R224) and its micro-routine
(spec/42_firing.md rule R147), the bit-serial link among it (spec/41_serial_link.md rule R133). -/

namespace Sys2Proof.Machine

/-! ## The ready-wait (rules R147, R148) -/

/-- One READY sample, the `attempt`-th of `latchTimeout`: a match ends the wait; a miss waits T_POLL and samples again, and after
the last one goes on to shift all the same (rules R148, R149). -/
def readySampleOp (attempt : Nat) (s : State) : State :=
  if s.pins.ready = s.latchWant then
    { s with acc := { s.acc with readyOk := true } }.goto (.fire (.selectLow .a)) 0
  else if attempt < s.latchTimeout then s.goto (.fire (.sampleReady (attempt + 1))) s.cfg.tPoll
  else s.goto (.fire (.selectLow .a)) s.cfg.tPoll

/-! ## SHIFT_CHANNEL (rule R133) -/

/-- set(CS := 0); wait(T_CSS). -/
def selectLowOp (ch : Channel) (s : State) : State :=
  (s.drive ch.select false).goto (.fire (.clockLow ch 0)) s.cfg.tCss

/-- set(SCLK := 0). -/
def clockLowOp (ch : Channel) (k : Nat) (s : State) : State :=
  (s.drive .sclk false).goto (.fire (.setData ch k)) 0

/-- set(SDATA := b); wait(T_SU). -/
def setDataOp (ch : Channel) (k : Nat) (s : State) : State :=
  (s.drive .sdata (streamBit s.shiftBuf ch k)).goto (.fire (.clockHigh ch k)) s.cfg.tSu

/-- set(SCLK := 1); wait(T_HI), and after the 64th bit wait(T_CSH). -/
def clockHighOp (ch : Channel) (k : Nat) (s : State) : State :=
  if k + 1 < 64 then (s.drive .sclk true).goto (.fire (.clockLow ch (k + 1))) s.cfg.tHi
  else (s.drive .sclk true).goto (.fire (.selectHigh ch)) (s.cfg.tHi + s.cfg.tCsh)

/-- set(CS := 1): CHANNEL_B follows CHANNEL_A at once, the strobe follows CHANNEL_B at once (rules R147, R150). -/
def selectHighOp (ch : Channel) (s : State) : State :=
  match ch with
  | .a => (s.drive Channel.a.select true).goto (.fire (.selectLow .b)) 0
  | .b => (s.drive Channel.b.select true).goto (.fire .strobeLow) 0

/-! ## Strobe, readback, completion (rules R147, R151, R152) -/

/-- The sample of READY and FAULT after the strobe, raw (rule R152). -/
def readBackOp (s : State) : State :=
  { s with acc := { s.acc with readyAfter := s.pins.ready, faultAfter := s.pins.fault } }.goto (.fire .finish) 0

/-- done(RB_VALID, READY_OK, READY_AFTER, FAULT_AFTER) (rule R147); PSTATE unchanged. -/
def fireDoneOp (s : State) : State :=
  s.complete
    { rbValid := s.acc.rbValid, readyOk := s.acc.readyOk,
      readyAfter := s.acc.readyAfter, faultAfter := s.acc.faultAfter }
    s.pstate

/-- One micro-op of FIRE (rule R147). -/
def fireOp (p : FirePc) (s : State) : State :=
  match p with
  | .sampleReady attempt => readySampleOp attempt s
  | .selectLow ch => selectLowOp ch s
  | .clockLow ch k => clockLowOp ch k s
  | .setData ch k => setDataOp ch k s
  | .clockHigh ch k => clockHighOp ch k s
  | .selectHigh ch => selectHighOp ch s
  | .strobeLow => (s.drive .fireN false).goto (.fire .strobeHigh) s.cfg.tFw
  | .strobeHigh => (s.drive .fireN true).goto (.fire .readBack) 0
  | .readBack => readBackOp s
  | .finish => fireDoneOp s

/-! ## Acceptance (rules R41, R107, R146, R224) -/

/-- The first micro-op of FIRE: the first READY sample where a ready-wait of at least one sample runs, else the shift
(rules R147, R158(1)). `waits` is WAIT_MODE ≠ 0. -/
def fireStart (waits : Bool) (timeout : Nat) : FirePc :=
  if waits && decide (0 < timeout) then .sampleReady 1 else .selectLow .a

/-- A CMD write of the FIRE word `w`: rejected outside PSTATE = READY, else the mask is snapshotted and the routine starts
(rules R107, R109, R224). -/
def State.offerFire (w : Word) (waits : Bool) (s : State) : State :=
  if s.busy then s.overrunWrite
  else if s.pstate ≠ .ready then s.rejectWith w .notPowered
  else { s with shiftBuf := s.mask }.accept w (.fire (fireStart waits (timeoutField w).toNat)) 0
    { Acc.zero with rbValid := waits }

/-- A CMD write of FIRE with WAIT_MODE 0: no ready-wait, TIMEOUT not read (rules R147, R158(2)). -/
def execFireNone (timeout : Nat) (s : State) : Host.Outcome State Fault Refusal :=
  .next (s.offerFire (encode (.fireNone timeout)) false)

/-- A CMD write of FIRE with WAIT_MODE 1: wait for READY = 1 (rules R147, R148). -/
def execFireHigh (timeout : Nat) (s : State) : Host.Outcome State Fault Refusal :=
  .next (s.offerFire (encode (.fireHigh timeout)) true)

/-- A CMD write of FIRE with WAIT_MODE 2: wait for READY = 0 (rules R147, R148). -/
def execFireLow (timeout : Nat) (s : State) : Host.Outcome State Fault Refusal :=
  .next (s.offerFire (encode (.fireLow timeout)) true)

end Sys2Proof.Machine
end

