-- ==== Sys2Proof/Machine/Motor.lean ====
section
/-! DEFINITION. ADVANCE and HOME: their acceptance (spec/40_sequencer.md rule R107, spec/44_motor.md rule R190) and their
micro-routines (rules R193 and R203). -/

namespace Sys2Proof.Machine

/-! ## ADVANCE (rules R193 to R197) -/

/-- The falling edge of pulse i: wait(T_STL), then the next pulse; after the n-th, pulses := n and the driver is disabled unless
KEEP (rule R193). -/
def advanceStepLowOp (i : Nat) (s : State) : State :=
  if i < s.latchCount then (s.drive .motorStep false).goto (.advance (.stepHigh (i + 1))) s.cfg.tStl
  else
    { s.drive .motorStep false with acc := { s.acc with pulses := s.latchCount } }.goto
      (.advance (if s.latchKeep then .finish else .disable)) s.cfg.tStl

/-- One micro-op of ADVANCE (rule R193). -/
def advanceOp (p : AdvancePc) (s : State) : State :=
  match p with
  | .setDir => (s.drive .motorDir s.latchDir).goto (.advance .enable) 0
  | .enable => (s.drive .motorEn true).goto (.advance (.stepHigh 1)) s.cfg.tMen
  | .stepHigh i => (s.drive .motorStep true).goto (.advance (.stepLow i)) s.cfg.tSth
  | .stepLow i => advanceStepLowOp i s
  | .disable => (s.drive .motorEn false).goto (.advance .finish) 0
  | .finish => s.completeMotor { noop := s.acc.noop }

/-- A CMD write of ADVANCE: a count of 0 goes straight to done(NOOP := 1) (rules R107, R109, R193, R197(1)). -/
def execAdvance (steps : Int) (keep : Bool) (s : State) : Host.Outcome State Fault Refusal :=
  .next (if s.busy then s.overrunWrite
    else if stepsField (encode (.advance steps keep)) = 0 then
      s.accept (encode (.advance steps keep)) (.advance .finish) 0 { Acc.zero with noop := true }
    else s.accept (encode (.advance steps keep)) (.advance .setDir) 0 Acc.zero)

/-! ## HOME (rules R201 to R207) -/

/-- Where HOME goes when it has stopped stepping (rule R203). -/
def homeExit (s : State) : HomePc := if s.latchKeep then .finish else .disable

/-- The ENDSTOP sample after pulse i: a trigger ends the loop with hit := 1, the last pulse of the budget ends it without
(rules R203, R204, R205). -/
def homeSampleOp (i : Nat) (s : State) : State :=
  if endstopTriggered s.cfg s.pins.endstop then
    { s with acc := { s.acc with pulses := i, hit := true } }.goto (.home (homeExit s)) 0
  else if i < s.cfg.homeMaxSteps then
    { s with acc := { s.acc with pulses := i } }.goto (.home (.stepHigh (i + 1))) 0
  else { s with acc := { s.acc with pulses := i } }.goto (.home (homeExit s)) 0

/-- One micro-op of HOME (rule R203). -/
def homeOp (p : HomePc) (s : State) : State :=
  match p with
  | .setDir => (s.drive .motorDir s.homeDirLevel).goto (.home .enable) 0
  | .enable => (s.drive .motorEn true).goto (.home (.stepHigh 1)) s.cfg.tMen
  | .stepHigh i => (s.drive .motorStep true).goto (.home (.stepLow i)) s.cfg.tSth
  | .stepLow i => (s.drive .motorStep false).goto (.home (.sampleEndstop i)) s.cfg.tStl
  | .sampleEndstop i => homeSampleOp i s
  | .disable => (s.drive .motorEn false).goto (.home .finish) 0
  | .finish => s.completeMotor { endstopHit := s.acc.hit }

/-- A CMD write of HOME (rules R107, R109, R203). -/
def execHome (keep : Bool) (s : State) : Host.Outcome State Fault Refusal :=
  .next (if s.busy then s.overrunWrite else s.accept (encode (.home keep)) (.home .setDir) 0 Acc.zero)

end Sys2Proof.Machine
end

