-- ==== Sys2Proof/Machine/Power.lean ====
section
/-! DEFINITION. POWER_UP and POWER_DOWN: their acceptance (spec/40_sequencer.md rule R107) and their micro-routines
(spec/43_power.md rules R172 and R180). -/

namespace Sys2Proof.Machine

/-! ## POWER_UP (rules R171 to R176) -/

/-- One micro-op of POWER_UP (rule R172). -/
def powerUpOp (p : PowerUpPc) (s : State) : State :=
  match p with
  | .setRails => ((s.drive .rail1En true).drive .rail2En true).goto (.powerUp .releaseReset) s.cfg.tPu2
  | .releaseReset => (s.drive .headReset false).goto (.powerUp .finish) s.cfg.tPu3
  | .finish => s.complete { noop := s.acc.noop } (if s.acc.noop then s.pstate else .ready)

/-- A CMD write of POWER_UP (rules R107, R109, R171, R176). No run reaches the two transient values while idle (rule R26, log 11). -/
def execPowerUp (s : State) : Host.Outcome State Fault Refusal :=
  .next (if s.busy then s.overrunWrite
    else match s.pstate with
      | .ready => s.accept (encode .powerUp) (.powerUp .finish) 0 { Acc.zero with noop := true }
      | .off =>
        { s with pstate := .railsEnabling }.accept (encode .powerUp) (.powerUp .setRails) s.cfg.tPu1 Acc.zero
      | .railsEnabling => s.accept (encode .powerUp) (.powerUp .setRails) s.cfg.tPu1 Acc.zero
      | .resetAsserting => s.accept (encode .powerUp) (.powerUp .setRails) s.cfg.tPu1 Acc.zero)

/-! ## POWER_DOWN (rules R178 to R183) -/

/-- One micro-op of POWER_DOWN (rule R180). -/
def powerDownOp (p : PowerDownPc) (s : State) : State :=
  match p with
  | .assertReset => (s.drive .headReset true).goto (.powerDown .cutRails) s.cfg.tPd1
  | .cutRails => ((s.drive .rail1En false).drive .rail2En false).goto (.powerDown .finish) s.cfg.tPd2
  | .finish => s.complete { noop := s.acc.noop } (if s.acc.noop then s.pstate else .off)

/-- A CMD write of POWER_DOWN (rules R107, R109, R178, R183). No run reaches the two transient values while idle (rule R26,
log 11). -/
def execPowerDown (s : State) : Host.Outcome State Fault Refusal :=
  .next (if s.busy then s.overrunWrite
    else match s.pstate with
      | .off => s.accept (encode .powerDown) (.powerDown .finish) 0 { Acc.zero with noop := true }
      | .ready =>
        { s with pstate := .resetAsserting }.accept (encode .powerDown) (.powerDown .assertReset) 0 Acc.zero
      | .railsEnabling => s.accept (encode .powerDown) (.powerDown .assertReset) 0 Acc.zero
      | .resetAsserting => s.accept (encode .powerDown) (.powerDown .assertReset) 0 Acc.zero)

end Sys2Proof.Machine
end

