-- ==== Sys2Proof/Machine/Dispatch.lean ====
section
/-! DEFINITION. The meaning of a command word written to CMD, by command (spec/40_sequencer.md rules R107 and R109, log 10). -/

namespace Sys2Proof.Machine

def exec (i : Instr) (s : State) : Host.Outcome State Fault Refusal :=
  match i with
  | .powerUp => Sys2Proof.Machine.execPowerUp s
  | .powerDown => Sys2Proof.Machine.execPowerDown s
  | .fireNone timeout => Sys2Proof.Machine.execFireNone timeout s
  | .fireHigh timeout => Sys2Proof.Machine.execFireHigh timeout s
  | .fireLow timeout => Sys2Proof.Machine.execFireLow timeout s
  | .advance steps keep => Sys2Proof.Machine.execAdvance steps keep s
  | .home keep => Sys2Proof.Machine.execHome keep s

end Sys2Proof.Machine
end

