-- ==== Sys2Proof/Machine/Sequencer.lean ====
section
/-! DEFINITION. One cycle of the block: the sequencer's micro-op (spec/40_sequencer.md rule R100), the host's access
(spec/20_memory.md rules R60 to R66, spec/40_sequencer.md rules R107 and R109), and the two together (rule R66). -/

namespace Sys2Proof.Machine

/-- The micro-op at the sequencer's position (rules R40, R100). -/
def microOp (s : State) : State :=
  match s.upc with
  | .idle => s
  | .powerUp p => powerUpOp p s
  | .powerDown p => powerDownOp p s
  | .fire p => fireOp p s
  | .advance p => advanceOp p s
  | .home p => homeOp p s

/-- The sequencer's cycle while a routine runs: a wait cycle if one is left, else the micro-op (rules R100, R102). -/
def seqCycle (s : State) : State := if 0 < s.waitcnt then s.waitCycle else microOp s

/-- A write of `w` to CMD: an overrun while busy, not decoded (rules R109, R223(1)); else decoded, and rejected or executed
(rules R88, R107). -/
def cmdWrite (w : Word) (s : State) : Host.Outcome State Fault Refusal :=
  if s.busy then .next s.overrunWrite
  else match decode w with
    | .error r => .next (s.rejectWith w r)
    | .ok i => exec i s

/-- The effect of the host's access of this cycle on the block's registers (rules R30, R60, R61, R65). -/
def hostEffect (s : State) : Host.Outcome State Fault Refusal :=
  match s.input.host with
  | .write addr _ v =>
    match regAt s.cfg addr with
    | none => .next s
    | some .cmd => cmdWrite v s
    | some r => .next (s.writeReg r v)
  | _ => .next s

/-- One cycle without RST: the host's access and, if a routine ran at its start, the sequencer's cycle. They never write the same
element, so their order is immaterial (rule R66). -/
def activeCycle (s : State) : Host.Outcome State Fault Refusal :=
  match hostEffect s with
  | .next t => .next (s.endCycle (if s.busy then seqCycle t else t))
  | .fault r => .fault r
  | .refused r => .refused r

/-- One CLK cycle: an access of a wrong size is refused (rule R62), RST overrides everything (rule R250). -/
def clockCycle (s : State) : Host.Outcome State Fault Refusal :=
  if s.accessOk then (if s.input.rst then .next s.resetCycle else activeCycle s)
  else .refused .accessSize

/-- The first `nbits` bits of a table word, as the command word they are (log 21). -/
def tableWord (nbits w : Nat) : Word := BitVec.ofNat 32 (w % 2 ^ nbits)

/-- `s` with the host writing the word `w` to CMD in the coming cycle, RST low and no routine running, so that the block takes
it: the rest of the coming cycle's inputs and of the state is as it was (log 13). -/
def State.offerWord (w : Word) (s : State) : State :=
  { s with
    upc := .idle
    waitcnt := 0
    inputs := { s.input with rst := false, host := .write s.cfg.base 4 w } :: s.inputs.tail }

end Sys2Proof.Machine
end

