-- ==== Sys2Proof/Machine/Step.lean ====
section
/-! DEFINITION. The step of the machine: one CLK cycle (spec/40_sequencer.md rule R100, log 1), and how a command word comes to
run (log 13). -/

namespace Sys2Proof.Machine

/-- One step is one CLK cycle (log 1). -/
def step (s : State) : Host.Outcome State Fault Refusal := clockCycle s

/-- `s` with the command word whose table bits are `w` written to CMD by the host in the coming cycle (log 13). -/
def State.withFetchWord (s : State) (nbits w : Nat) : State := s.offerWord (tableWord nbits w)

end Sys2Proof.Machine
end

