-- ==== Sys2Proof/Machine/Observe.lean ====
section
/-! DEFINITION. What the block shows (spec/40_sequencer.md rules R103, R112, R113): line events, the levels of the coming cycles,
runs of cycles, and the lengths the spec gives its routines. -/

namespace Sys2Proof.Machine

/-! ## Line events (rule R112) -/

/-- Every output line, in LINES order (rule R37). -/
def allLines : List Line :=
  [.sclk, .sdata, .csAN, .csBN, .fireN, .rail1En, .rail2En, .headReset, .motorEn, .motorDir, .motorStep]

/-- The line events of the cycle that took `s` to `t`: each line that changes, with its new level (rule R112). Setting a line to
the value it has is no event (rule R101). -/
def lineEvents (s t : State) : List (Line × Bool) :=
  (allLines.filter fun l => s.lines.get l != t.lines.get l).map fun l => (l, t.lines.get l)

/-! ## Coming cycles -/

/-- What reaches the block in the `j`-th coming cycle (log 2, log 3). -/
def State.inputAt (s : State) (j : Nat) : CycleInput :=
  match s.inputs.drop j with
  | [] => { rst := false, host := .quiet, pins := Config.freePins (s.cycle + j) }
  | i :: _ => i

/-- A cycle's input keeps the block running under configuration `c`: RST is low, and the host's access, if it reaches the block,
is 4 bytes (rules R62, R250). Any such access is allowed, CMD writes too. -/
def inputRuns (c : Config) (i : CycleInput) : Bool :=
  !i.rst && (match i.host with
    | .quiet => true
    | .read addr size => (regAt c addr).isNone || size == 4
    | .write addr size _ => (regAt c addr).isNone || size == 4)

/-- None of the next `n` cycles has RST asserted or a refused access. -/
def State.RunsFor (s : State) (n : Nat) : Prop := ∀ j < n, inputRuns s.cfg (s.inputAt j) = true

/-! ## Runs of cycles -/

/-- What is gathered from each of the next `n` cycles, the cycle's start and end state being looked at by `f`; a cycle that stops
ends the list. -/
def gather {α : Type} (f : State → State → List α) : Nat → State → List α
  | 0, _ => []
  | n + 1, s =>
    match step s with
    | .next t => f s t ++ gather f n t
    | .fault _ => []
    | .refused _ => []

/-- `n` cycles, stopping at the first that does not answer a next state. -/
def runCycles : Nat → State → Host.Outcome State Fault Refusal
  | 0, s => .next s
  | n + 1, s =>
    match step s with
    | .next t => runCycles n t
    | .fault r => .fault r
    | .refused r => .refused r

/-- The level of a line at the end of each of the next `n` cycles. -/
def levelTrace (l : Line) (n : Nat) (s : State) : List Bool := gather (fun _ t => [t.lines.get l]) n s

/-- STATUS.BUSY at the end of each of the next `n` cycles. -/
def busyTrace (n : Nat) (s : State) : List Bool := gather (fun _ t => [t.busy]) n s

/-- What stands on the serial lines at a rising edge of SCLK: CS_A_N, CS_B_N, SDATA. -/
structure SerialEdge where
  csAN : Bool
  csBN : Bool
  sdata : Bool
deriving DecidableEq, Repr

/-- The rising edge of SCLK in a cycle, if it makes one (rule R133: the rising edge captures SDATA). -/
def sclkEdge (s t : State) : List SerialEdge :=
  if !s.lines.sclk && t.lines.sclk then [⟨t.lines.csAN, t.lines.csBN, t.lines.sdata⟩] else []

/-- The rising edge of MOTOR_STEP in a cycle, if it makes one, with the levels of MOTOR_EN and MOTOR_DIR. -/
def stepEdge (s t : State) : List (Bool × Bool) :=
  if !s.lines.motorStep && t.lines.motorStep then [(t.lines.motorEn, t.lines.motorDir)] else []

/-- `n` copies of a piece of a trace, one after another. -/
def repeated (n : Nat) (piece : List Bool) : List Bool := (List.replicate n piece).flatten

/-! ## Lengths in cycles -/

/-- L of POWER_UP from OFF (rule R175). -/
def powerUpLength (c : Config) : Nat := c.tPu1 + c.tPu2 + c.tPu3 + 3

/-- L of POWER_DOWN from READY (rule R182). -/
def powerDownLength (c : Config) : Nat := c.tPd1 + c.tPd2 + 3

/-- The bit period P (rule R135). -/
def bitPeriod (c : Config) : Nat := 3 + c.tSu + c.tHi

/-- L_ch, the length of SHIFT_CHANNEL (rule R137). -/
def channelLength (c : Config) : Nat := 2 + c.tCss + c.tCsh + 64 * bitPeriod c

/-- The ready-wait's length W in cycles and whether a sample matched, where `level j` is the READY level of the `j`-th cycle from
the first sample on and `n` samples are left (rules R148, R156). -/
def readyWait (tPoll : Nat) (want : Bool) (level : Nat → Bool) : Nat → Nat × Bool
  | 0 => (0, false)
  | n + 1 =>
    if level 0 = want then (1, true)
    else
      let r := readyWait tPoll want (fun j => level (1 + tPoll + j)) n
      (1 + tPoll + r.1, r.2)

/-- W and READY_OK of a FIRE command, where `level j` is the READY level of the `j`-th cycle after acceptance: no ready-wait for
WAIT_MODE 0 (rules R147, R148, R156). -/
def fireWait (c : Config) (i : Instr) (level : Nat → Bool) : Nat × Bool :=
  match i with
  | .fireHigh n => readyWait c.tPoll true level n
  | .fireLow n => readyWait c.tPoll false level n
  | _ => (0, false)

/-- L_FIRE for a ready-wait of `w` cycles (rule R156). -/
def fireLength (c : Config) (w : Nat) : Nat := w + 2 * channelLength c + c.tFw + 4

/-- L of ADVANCE by a count of magnitude `n` (rule R196). -/
def advanceLength (c : Config) (n : Nat) (keep : Bool) : Nat :=
  if n = 0 then 1 else 3 + c.tMen + n * (2 + c.tSth + c.tStl) + (if keep then 0 else 1)

/-- The number of pulses HOME issues and whether the endstop was seen, where `level j` is the ENDSTOP level of the `j`-th cycle
from the first pulse's rise on, `i` pulses are done and `n` are left in the budget (rules R203, R206). -/
def homePulses (c : Config) : (level : Nat → Bool) → (i n : Nat) → Nat × Bool
  | _, i, 0 => (i, false)
  | level, i, n + 1 =>
    if endstopTriggered c (level (2 + c.tSth + c.tStl)) then (i + 1, true)
    else homePulses c (fun j => level (3 + c.tSth + c.tStl + j)) (i + 1) n

/-- L of HOME with `k` pulses (rule R206). -/
def homeLength (c : Config) (k : Nat) (keep : Bool) : Nat :=
  3 + c.tMen + k * (3 + c.tSth + c.tStl) + (if keep then 0 else 1)

/-- The low width of the FIRE strobe in ns (rules R103, R151). -/
def fireLowNs (c : Config) : Nat := (c.tFw + 1) * c.tClkNs

end Sys2Proof.Machine
end

