-- ==== Sys2Proof/Machine/Program.lean ====
section
/-! DEFINITION. The host's side: assembler statements and pseudo-instructions (spec/30_encoding.md rules R90 to R94 and R96),
disassembly (rule R95), and the run of a host program to its end (spec/40_sequencer.md rule R113). -/

namespace Sys2Proof.Machine

/-! ## Assembler (rules R90 to R94, R96) -/

/-- A statement of a host program. -/
inductive Stmt where
  | powerUp
  | powerDown
  | fireNone
  | fireHigh (n : Nat)
  | fireLow (n : Nat)
  | advance (steps : Int) (keep : Bool)
  | home (keep : Bool)
  /-- The raw write `wr off, v` (rule R91). -/
  | wr (off : Nat) (v : Word)
  /-- The raw read `rd off` (rule R91); its value is the next one of the run's reads. -/
  | rd (off : Nat)
  /-- `load_mask`, 16 bytes, mask byte 0 first (rule R92). -/
  | loadMask (bytes : List Byte)
  /-- `clr_overrun` (rule R93). -/
  | clrOverrun
  /-- `rd_status` (rule R94). -/
  | rdStatus
  /-- `rd_result` (rule R94). -/
  | rdResult
  /-- `rd_steps` (rule R94). -/
  | rdSteps
  /-- `rd_lines` (rule R94). -/
  | rdLines
  /-- `wait_idle` (rule R96). -/
  | waitIdle
deriving DecidableEq, Repr

/-- What the host does for a statement: one access a cycle, or the STATUS loop of rule R96. -/
inductive HostAction where
  | access (a : HostAccess)
  | waitIdle
deriving DecidableEq, Repr

/-- The command of a command statement (rule R90). -/
def Stmt.command? : Stmt → Option Instr
  | .powerUp => some .powerUp
  | .powerDown => some .powerDown
  | .fireNone => some (.fireNone 0)
  | .fireHigh n => some (.fireHigh n)
  | .fireLow n => some (.fireLow n)
  | .advance steps keep => some (.advance steps keep)
  | .home keep => some (.home keep)
  | _ => none

/-- `wr off, v` (rule R91). -/
def wrAccess (c : Config) (off : Nat) (v : Word) : HostAccess := .write (c.base + off) 4 v

/-- `rd off` (rule R91). -/
def rdAccess (c : Config) (off : Nat) : HostAccess := .read (c.base + off) 4

/-- An offset of rule R91: a multiple of 4 in 0x00 to 0x3C. Another is an assembly error: DEDUCED (log 25). -/
def offsetOk (off : Nat) : Bool := off % 4 == 0 && decide (off ≤ 0x3C)

/-- b3<<24 | b2<<16 | b1<<8 | b0 (rule R92). -/
def laneWord (b0 b1 b2 b3 : Byte) : Word := b3 ++ b2 ++ b1 ++ b0

/-- The four writes of `load_mask`, which takes 16 bytes (rule R92). Another number of them is an assembly error: DEDUCED (log 25). -/
def maskWrites (c : Config) : List Byte → Option (List HostAction)
  | [b0, b1, b2, b3, b4, b5, b6, b7, b8, b9, b10, b11, b12, b13, b14, b15] =>
    some [.access (wrAccess c 0x10 (laneWord b0 b1 b2 b3)), .access (wrAccess c 0x14 (laneWord b4 b5 b6 b7)),
      .access (wrAccess c 0x18 (laneWord b8 b9 b10 b11)), .access (wrAccess c 0x1C (laneWord b12 b13 b14 b15))]
  | _ => none

/-- The one write of a command's word to CMD, or nothing where an operand is out of range (rule R90). -/
def commandWrite (c : Config) (i : Instr) : Option (List HostAction) :=
  if i.wf then some [.access (wrAccess c 0x00 (encode i))] else none

/-- The assembler: a statement's accesses, or nothing where it is an assembly error (rules R90 to R94, R96). -/
def assemble (c : Config) (st : Stmt) : Option (List HostAction) :=
  match st with
  | .powerUp => commandWrite c .powerUp
  | .powerDown => commandWrite c .powerDown
  | .fireNone => commandWrite c (.fireNone 0)
  | .fireHigh n => commandWrite c (.fireHigh n)
  | .fireLow n => commandWrite c (.fireLow n)
  | .advance steps keep => commandWrite c (.advance steps keep)
  | .home keep => commandWrite c (.home keep)
  | .wr off v => if offsetOk off then some [.access (wrAccess c off v)] else none
  | .rd off => if offsetOk off then some [.access (rdAccess c off)] else none
  | .loadMask bytes => maskWrites c bytes
  | .clrOverrun => some [.access (wrAccess c 0x04 0x00000008)]
  | .rdStatus => some [.access (rdAccess c 0x04)]
  | .rdResult => some [.access (rdAccess c 0x08)]
  | .rdSteps => some [.access (rdAccess c 0x0C)]
  | .rdLines => some [.access (rdAccess c 0x20)]
  | .waitIdle => some [.waitIdle]

/-- A program's actions in order. Where any one statement is an assembly error, the whole program has none: DESIGN CHOICE (log 24);
rule R90 says only that the faulty statement assembles to nothing. -/
def assembleAll (c : Config) : List Stmt → Option (List HostAction)
  | [] => some []
  | st :: rest =>
    match assemble c st, assembleAll c rest with
    | some a, some b => some (a ++ b)
    | _, _ => none

/-! ## Disassembly (rule R95) -/

/-- What a word prints as (rule R95). -/
inductive Disasm where
  /-- A command statement that assembles to the word. -/
  | command (st : Stmt)
  /-- `FIRE none ; timeout=N ignored`. -/
  | fireNoneIgnored (timeout : Nat)
  /-- `.word ... ; ILLEGAL_OPCODE` or `; RESERVED_FIELD`. -/
  | word (c : Word) (r : Reject)
deriving DecidableEq, Repr

/-- The inverse of rule R90 after `decode` (rule R95). -/
def disassemble (c : Word) : Disasm :=
  match decode c with
  | .error r => .word c r
  | .ok .powerUp => .command .powerUp
  | .ok .powerDown => .command .powerDown
  | .ok (.fireNone n) => if n = 0 then .command .fireNone else .fireNoneIgnored n
  | .ok (.fireHigh n) => .command (.fireHigh n)
  | .ok (.fireLow n) => .command (.fireLow n)
  | .ok (.advance steps keep) => .command (.advance steps keep)
  | .ok (.home keep) => .command (.home keep)

/-! ## Running a host program (rules R66, R96, R113) -/

/-- A run in progress: the block, the host's actions still to do, and the values its reads returned, in order. -/
structure Run where
  block : State
  todo : List HostAction
  reads : List Word
deriving DecidableEq, Repr

/-- The coming cycle with the host making the access `a`: the listed cycles give RST and the input levels, the program gives the
host's access (log 20). -/
def State.withHost (a : HostAccess) (s : State) : State :=
  { s with inputs := { s.input with host := a } :: s.inputs.tail }

/-- The run is over: every statement is executed and STATUS.BUSY = 0 (rule R113). -/
def Run.over (r : Run) : Bool := r.todo.isEmpty && !r.block.busy

/-- The host's access in the coming cycle: its next action's, the STATUS read of `wait_idle`, or none (rule R96). -/
def Run.access (r : Run) : HostAccess :=
  match r.todo with
  | [] => .quiet
  | .access a :: _ => a
  | .waitIdle :: _ => rdAccess r.block.cfg 0x04

/-- What is left to do after a cycle whose read returned `d`: `wait_idle` stays while the STATUS it read has bit 2 set (rule R96). In a
cycle with RST asserted too, where `d` is a free draw: DESIGN CHOICE (log 26). -/
def Run.left (r : Run) (d : Option Word) : List HostAction :=
  match r.todo with
  | [] => []
  | .access _ :: rest => rest
  | .waitIdle :: rest =>
    match d with
    | some v => if v.getLsbD 2 then r.todo else rest
    | none => r.todo

/-- The values read so far: `wait_idle`'s own reads go to no variable of the program. -/
def Run.readsAfter (r : Run) (d : Option Word) : List Word :=
  match r.todo with
  | .access _ :: _ => r.reads ++ d.toList
  | _ => r.reads

/-- One cycle of a run. A cycle with RST asserted is one like any other: it uses up the statement's access, which the block ignores
(rule R250), and the run goes on. DESIGN CHOICE (log 26): rule R113 says nothing about a run in which RST is asserted. -/
def Run.cycle (r : Run) : Host.Outcome Run Fault Refusal :=
  match step (r.block.withHost r.access) with
  | .next t => .next { block := t, todo := r.left t.readData, reads := r.readsAfter t.readData }
  | .fault f => .fault f
  | .refused f => .refused f

/-- At most `fuel` cycles of a run, ending at the first at which it is over (rule R113; with RST asserted in it, log 26). -/
def Run.go : Nat → Run → Host.Outcome Run Fault Refusal
  | 0, r => .next r
  | n + 1, r =>
    if r.over then .next r
    else match r.cycle with
      | .next r' => Run.go n r'
      | .fault f => .fault f
      | .refused f => .refused f

end Sys2Proof.Machine
end

