-- ==== Sys2Proof/Safety.lean ====
section
/-! DEFINITION. What counts as a safe state of the block, in the terms the statements use: the power invariants (spec/10_state.md
rules R26 and R27, spec/43_power.md rule R185), the serial and strobe levels (spec/41_serial_link.md rules R135 and R136,
spec/42_firing.md rule R151), the motor levels (spec/44_motor.md rules R191 and R195), the latched command (rule R42), the form of
RESULT (rules R33, R34, R222) and the widths of the counters (rule R114). -/

namespace Sys2Proof.Machine

/-! ## Power (rules R26, R27, R174, R181, R185) -/

/-- Both rails disabled and the head reset asserted (rule R22). -/
def Lines.headOff (l : Lines) : Prop := l.rail1En = false ∧ l.rail2En = false ∧ l.headReset = true

/-- Both rails enabled and the head reset still asserted. -/
def Lines.headHeld (l : Lines) : Prop := l.rail1En = true ∧ l.rail2En = true ∧ l.headReset = true

/-- Both rails enabled and the head reset released. -/
def Lines.headOn (l : Lines) : Prop := l.rail1En = true ∧ l.rail2En = true ∧ l.headReset = false

/-- PSTATE is OFF or READY, with the levels rule R27 gives them. -/
def State.powerSettled (s : State) : Prop :=
  (s.pstate = .off ∧ s.lines.headOff) ∨ (s.pstate = .ready ∧ s.lines.headOn)

/-- The power state and the power lines at every position of the sequencer. -/
def PowerInv (s : State) : Prop :=
  match s.upc with
  | .idle => s.powerSettled
  | .powerUp .setRails => s.pstate = .railsEnabling ∧ s.lines.headOff ∧ s.acc.noop = false
  | .powerUp .releaseReset => s.pstate = .railsEnabling ∧ s.lines.headHeld ∧ s.acc.noop = false
  | .powerUp .finish =>
    s.lines.headOn ∧ (if s.acc.noop then s.pstate = .ready else s.pstate = .railsEnabling)
  | .powerDown .assertReset => s.pstate = .resetAsserting ∧ s.lines.headOn ∧ s.acc.noop = false
  | .powerDown .cutRails => s.pstate = .resetAsserting ∧ s.lines.headHeld ∧ s.acc.noop = false
  | .powerDown .finish =>
    s.lines.headOff ∧ (if s.acc.noop then s.pstate = .off else s.pstate = .resetAsserting)
  | .fire _ => s.pstate = .ready ∧ s.lines.headOn
  | .advance _ => s.powerSettled
  | .home _ => s.powerSettled

/-! ## Serial link and strobe (rules R135, R136, R151) -/

/-- The levels of SCLK, CS_A_N, CS_B_N and FIRE_N. -/
structure SerialLevels where
  sclk : Bool
  csAN : Bool
  csBN : Bool
  fireN : Bool
deriving DecidableEq, Repr

/-- The four levels on the lines. -/
def Lines.serial (l : Lines) : SerialLevels := ⟨l.sclk, l.csAN, l.csBN, l.fireN⟩

/-- Clock idle high, both channels deselected, no strobe. -/
def serialIdle : SerialLevels := ⟨true, true, true, true⟩

/-- Channel `ch` selected, the other not, no strobe, SCLK at `clk`. -/
def serialSelected (ch : Channel) (clk : Bool) : SerialLevels :=
  match ch with
  | .a => ⟨clk, false, true, true⟩
  | .b => ⟨clk, true, false, true⟩

/-- The levels before the micro-op at a position of FIRE (rules R133, R147). -/
def fireLevels : FirePc → SerialLevels
  | .sampleReady _ => serialIdle
  | .selectLow _ => serialIdle
  | .clockLow ch _ => serialSelected ch true
  | .setData ch _ => serialSelected ch false
  | .clockHigh ch _ => serialSelected ch false
  | .selectHigh ch => serialSelected ch true
  | .strobeLow => serialIdle
  | .strobeHigh => ⟨true, true, true, false⟩
  | .readBack => serialIdle
  | .finish => serialIdle

/-- SCLK, the chip selects and FIRE_N at every position of the sequencer: idle outside FIRE. -/
def SerialInv (s : State) : Prop :=
  match s.upc with
  | .fire p => s.lines.serial = fireLevels p
  | _ => s.lines.serial = serialIdle

/-! ## Motor (rules R191, R192, R195) -/

/-- MOTOR_EN and MOTOR_STEP at every position of the sequencer: MOTOR_STEP is 1 only within a pulse, and the driver is enabled
around every pulse. -/
def MotorInv (s : State) : Prop :=
  match s.upc with
  | .advance (.stepHigh _) => s.lines.motorEn = true ∧ s.lines.motorStep = false
  | .advance (.stepLow _) => s.lines.motorEn = true ∧ s.lines.motorStep = true
  | .advance .disable => s.lines.motorEn = true ∧ s.lines.motorStep = false
  | .home (.stepHigh _) => s.lines.motorEn = true ∧ s.lines.motorStep = false
  | .home (.stepLow _) => s.lines.motorEn = true ∧ s.lines.motorStep = true
  | .home (.sampleEndstop _) => s.lines.motorEn = true ∧ s.lines.motorStep = false
  | .home .disable => s.lines.motorEn = true ∧ s.lines.motorStep = false
  | _ => s.lines.motorStep = false

/-! ## The latched command and the loop indices (rules R42, R107, R114) -/

/-- The micro-routine of a command (rule R39, rule R86). -/
def commandRoutine : Instr → Routine
  | .powerUp => .powerUp
  | .powerDown => .powerDown
  | .fireNone _ => .fire
  | .fireHigh _ => .fire
  | .fireLow _ => .fire
  | .advance _ _ => .advance
  | .home _ => .home

/-- While a routine runs, CMD_LATCH holds a word that decodes to a command of that routine. -/
def LatchInv (s : State) : Prop :=
  s.busy = true → ∃ i, decode s.cmdLatch = .ok i ∧ commandRoutine i = s.routine

/-- The loop indices and accumulators stay in the ranges their loops give them: 1 to TIMEOUT READY samples, 64 bits a channel,
1 to |STEPS| or HOME_MAX_STEPS pulses. What an accumulator holds before its first assignment, `rbValid` during the samples and
`pulses` at a motor routine's end among it, follows log 8 (DEDUCED). -/
def IndexInv (s : State) : Prop :=
  match s.upc with
  | .fire (.sampleReady attempt) => 1 ≤ attempt ∧ attempt ≤ s.latchTimeout ∧ s.acc.rbValid = true
  | .fire (.clockLow _ k) => k < 64
  | .fire (.setData _ k) => k < 64
  | .fire (.clockHigh _ k) => k < 64
  | .advance .setDir => s.latchCount ≠ 0
  | .advance .enable => s.latchCount ≠ 0
  | .advance (.stepHigh i) => 1 ≤ i ∧ i ≤ s.latchCount
  | .advance (.stepLow i) => 1 ≤ i ∧ i ≤ s.latchCount
  | .advance .disable => s.acc.pulses = s.latchCount
  | .advance .finish => s.acc.pulses = s.latchCount
  | .home (.stepHigh i) => 1 ≤ i ∧ i ≤ s.cfg.homeMaxSteps
  | .home (.stepLow i) => 1 ≤ i ∧ i ≤ s.cfg.homeMaxSteps
  | .home (.sampleEndstop i) => 1 ≤ i ∧ i ≤ s.cfg.homeMaxSteps
  | .home .disable => 1 ≤ s.acc.pulses ∧ s.acc.pulses ≤ s.cfg.homeMaxSteps
  | .home .finish => 1 ≤ s.acc.pulses ∧ s.acc.pulses ≤ s.cfg.homeMaxSteps
  | _ => True

/-! ## RESULT and STEPCOUNT (rules R33, R34, R114, R222) -/

/-- The form of RESULT: the reserved bits read 0, ERR is 0 to 3, and the two computed bits are what rule R33 says of the others. -/
def ResultInv (s : State) : Prop :=
  s.result.extractLsb' 16 16 = 0 ∧
  s.result.getLsbD 3 = false ∧
  resultErr s.result ≤ 3 ∧
  resultReadyTimeout s.result = (resultRbValid s.result && !resultReadyOk s.result) ∧
  resultHomeExhausted s.result
    = (resultOpc s.result == 5 && resultErr s.result == 0 && !resultEndstopHit s.result)

/-- STEPCOUNT holds a count a command can issue, at most 2^24 (rule R114). -/
def CountInv (s : State) : Prop := s.stepcount.toNat ≤ 2 ^ 24

/-- WAITCNT is 0 while idle, and holds at most two delays of rule R8, one after another (rule R114, log 9). -/
def WaitInv (s : State) : Prop :=
  (s.busy = false → s.waitcnt = 0) ∧ s.waitcnt ≤ 2 * (2 ^ 32 - 1)

/-! ## Terms of the statements -/

/-- The host writes the word `w` to CMD in this cycle, and RST is low. -/
def State.Offers (s : State) (w : Word) : Prop :=
  s.input.rst = false ∧ ∃ addr, s.input.host = .write addr 4 w ∧ regAt s.cfg addr = some .cmd

/-- The position a command's routine starts at and the wait before it, where `p0` is PSTATE at the start of the acceptance cycle:
the first micro-op of the pseudocode of rules R172, R180, R147, R193 and R203. -/
def firstPosition (c : Config) (p0 : PState) : Instr → Upc × Nat
  | .powerUp => if p0 = .ready then (.powerUp .finish, 0) else (.powerUp .setRails, c.tPu1)
  | .powerDown => if p0 = .off then (.powerDown .finish, 0) else (.powerDown .assertReset, 0)
  | .fireNone _ => (.fire (.selectLow .a), 0)
  | .fireHigh n => if n = 0 then (.fire (.selectLow .a), 0) else (.fire (.sampleReady 1), 0)
  | .fireLow n => if n = 0 then (.fire (.selectLow .a), 0) else (.fire (.sampleReady 1), 0)
  | .advance steps _ => if steps = 0 then (.advance .finish, 0) else (.advance .setDir, 0)
  | .home _ => (.home .setDir, 0)

/-- PSTATE at the end of the acceptance cycle of a command (rule R107). -/
def acceptedPState (p0 : PState) : Instr → PState
  | .powerUp => if p0 = .off then .railsEnabling else p0
  | .powerDown => if p0 = .ready then .resetAsserting else p0
  | _ => p0

/-- The lines a routine writes: "Lines written" of rules R172, R180, R147, R193 and R203. -/
def routineLines : Routine → List Line
  | .idle => []
  | .powerUp => [.rail1En, .rail2En, .headReset]
  | .powerDown => [.rail1En, .rail2En, .headReset]
  | .fire => [.sclk, .sdata, .csAN, .csBN, .fireN]
  | .advance => [.motorEn, .motorDir, .motorStep]
  | .home => [.motorEn, .motorDir, .motorStep]

/-- The host makes no access in the next `n` cycles. -/
def State.SilentFor (s : State) (n : Nat) : Prop := ∀ j < n, (s.inputAt j).host = .quiet

/-- The registers the host can write while a routine runs are the same: MASK0 to MASK3 and OVERRUN. -/
def State.SameHostSide (s u : State) : Prop :=
  u.mask0 = s.mask0 ∧ u.mask1 = s.mask1 ∧ u.mask2 = s.mask2 ∧ u.mask3 = s.mask3 ∧ u.overrun = s.overrun

/-- From `t`, the state at the end of its acceptance cycle, a command's routine occupies exactly `n` cycles: BUSY reads 1 until
its `done` in the last of them (rules R43, R108), whatever accesses the host makes and whatever the inputs are. Where the host
makes none, what only the host writes is as it was. The state after it meets `Final`. RST low and no access of a refused size is all
that is asked of the cycles. -/
def Completes (t : State) (n : Nat) (Final : State → Prop) : Prop :=
  t.RunsFor n →
    busyTrace n t = List.replicate (n - 1) true ++ [false] ∧
    ∃ u, runCycles n t = .next u ∧ u.busy = false ∧ (t.SilentFor n → t.SameHostSide u) ∧ Final u

/-- The micro-op at the sequencer's position runs in this cycle: no wait cycle is left (rule R102). -/
def State.AtOp (s : State) (u : Upc) : Prop := s.upc = u ∧ s.waitcnt = 0

end Sys2Proof.Machine
end

