-- ==== Sys2Proof/Certificates/Slice0/Obligations.lean ====
section
/-! DEFINITION. The statements about the block, each from the numbered rules of spec/ its docstring names. `s.RunsFor n` says only
that RST is low and no access of a refused size reaches the block in the next `n` cycles; every statement holds for every
configuration (a field of the state) and every behaviour of the host and of the input lines within that. -/

open Sys2Proof Sys2Proof.Machine

/-! ## Reset -/

/-- Rule R251: the reset value of every state element, for every configuration, and that the block then waits for a CMD write.
The accumulators are left out: the rule gives them no value (log 7). -/
def Obligations.ResetStateHoldsResetValues : Prop :=
  ∀ (c : Config) (ins : List CycleInput) (t : State),
    let s : State := { State.resetWith c with inputs := ins }
    (s.lines.sclk = true ∧ s.lines.sdata = false ∧ s.lines.csAN = true ∧ s.lines.csBN = true ∧ s.lines.fireN = true ∧
      s.lines.rail1En = false ∧ s.lines.rail2En = false ∧ s.lines.headReset = true ∧ s.lines.motorEn = false ∧
      s.lines.motorDir = false ∧ s.lines.motorStep = false) ∧
    s.readReg .lines = 0x0000009D ∧ (∀ p, (s.statusWord p).extractLsb' 0 4 = 0) ∧ s.pstate = .off ∧ s.busy = false ∧ s.overrun = false ∧ s.result = 0 ∧
    s.stepcount = 0 ∧ s.mask0 = 0 ∧ s.mask1 = 0 ∧ s.mask2 = 0 ∧ s.mask3 = 0 ∧ s.routine = .idle ∧ s.shiftBuf = 0 ∧
    s.cmdLatch = 0 ∧
    ((∀ w, ¬s.Offers w) → step s = .next t → t.routine = .idle ∧ t.lines = Lines.reset)

/-- Rule R250: a cycle with RST asserted, from any state: every state element takes its reset value, the routine is abandoned, a
host write is ignored, a host read returns a free draw, and the next cycle can accept a command. Model's choice in it: the
accumulators take 0 (log 7, not stated here). -/
def Obligations.RstCycleResetsEveryElement : Prop :=
  ∀ s : State, s.input.rst = true → s.accessOk = true →
    ∃ t, step s = .next t ∧
      t.cfg = s.cfg ∧ t.lines = Lines.reset ∧ t.pstate = .off ∧ t.overrun = false ∧ t.result = 0 ∧ t.stepcount = 0 ∧
      t.mask0 = 0 ∧ t.mask1 = 0 ∧ t.mask2 = 0 ∧ t.mask3 = 0 ∧ t.routine = .idle ∧ t.busy = false ∧ t.shiftBuf = 0 ∧
      t.cmdLatch = 0 ∧
      (∀ addr size r, s.input.host = .read addr size → regAt s.cfg addr = some r →
        t.readData = some (Config.freeRead s.cycle))

/-! ## A step -/

/-- A host access in the window of a size other than 4 bytes is refused (rule R62, entry S9), and that is the only thing that stops
a step. Two of its points are the model's own: that such an access is refused in a RST cycle too (log 12, DEDUCED: the spec says
nothing of it), and that nothing else stops a step (log 15, DEDUCED from rule R228: "No condition in this system is fatal"). -/
def Obligations.OnlyAWrongSizeStopsAStep : Prop :=
  (∀ (s : State) (addr size : Nat) (r : Reg), s.input.host = .read addr size → regAt s.cfg addr = some r →
    size ≠ 4 → step s = .refused .accessSize) ∧
  (∀ (s : State) (addr size : Nat) (v : Word) (r : Reg), s.input.host = .write addr size v →
    regAt s.cfg addr = some r → size ≠ 4 → step s = .refused .accessSize) ∧
  (∀ s : State, (∃ t, step s = .next t) ∨
    (step s = .refused .accessSize ∧ ∃ addr size r, size ≠ 4 ∧ regAt s.cfg addr = some r ∧
      (s.input.host = .read addr size ∨ ∃ v, s.input.host = .write addr size v)))

/-- Rules R60 and R61: an access outside the window is no access, whatever its size; bits [1:0] of the offset are not decoded. -/
def Obligations.AccessOutsideTheWindowDoesNotReachTheBlock : Prop :=
  (∀ (s : State), s.accessReg s.input.host = none →
    step s = step { s with inputs := { s.input with host := .quiet } :: s.inputs.tail }) ∧
  (∀ (c : Config) (addr : Nat), regAt c addr = none ↔ addr < c.base ∨ c.base + 64 ≤ addr) ∧
  (∀ (c : Config) (k b : Nat), k < 16 → b < 4 → regAt c (c.base + 4 * k + b) = regAt c (c.base + 4 * k)) ∧
  (∀ (c : Config) (k : Nat), 9 ≤ k → k < 16 → regAt c (c.base + 4 * k) = some .unmapped)

/-- A step runs the decoded command: when the host writes to CMD, while idle, a word that decodes to `i`, the step is `exec i` at
that state and then the end of the cycle (rules R100, R107; log 1, log 10). -/
def Obligations.StepRunsTheDecodedCommand : Prop :=
  ∀ (s t : State) (w : Word) (i : Instr), s.Offers w → s.busy = false → decode w = .ok i → exec i s = .next t →
    step s = .next (s.endCycle t)

/-- The fetch of a table word runs exactly it (log 13): the model's own convention. -/
def Obligations.WithFetchWordRunsTheWord : Prop :=
  ∀ (s : State) (i : Instr), i.wf = true →
    let f := s.withFetchWord 32 (encode i).toNat
    decodeTableWord 32 (encode i).toNat = some i ∧ f.busy = false ∧ f.Offers (encode i) ∧
    ∃ t, exec i f = .next t ∧ step f = .next (f.endCycle t)

/-! ## Encoding -/

/-- Decode and encode agree (rules R88, R90): for every well-formed command, decoding its word gives it back, with every operand. -/
def Obligations.DecodingAnEncodedCommandGivesItBack : Prop :=
  ∀ i : Instr, i.wf = true → decode (encode i) = .ok i

/-- Every word that decodes is the word of the well-formed command it decodes to (rules R80 to R88): no bit of it is dropped. -/
def Obligations.EncodingADecodedWordGivesItBack : Prop :=
  ∀ (w : Word) (i : Instr), decode w = .ok i → i.wf = true ∧ encode i = w

/-- Rule R87: exactly which words are rejected by decoding, with which code. -/
def Obligations.IllegalAndReservedWordsAreRejected : Prop :=
  ∀ w : Word,
    (decode w = .error .illegalOpcode ↔ opcField w = 0 ∨ 6 ≤ opcField w) ∧
    (decode w = .error .reservedField ↔
      ((opcField w = 1 ∨ opcField w = 2) ∧ ∃ j, 4 ≤ j ∧ j ≤ 31 ∧ w.getLsbD j = true) ∨
      (opcField w = 3 ∧ ((∃ j, 6 ≤ j ∧ j ≤ 15 ∧ w.getLsbD j = true) ∨ waitModeField w = 3)) ∨
      (opcField w = 4 ∧ ∃ j, 5 ≤ j ∧ j ≤ 7 ∧ w.getLsbD j = true) ∨
      (opcField w = 5 ∧ ∃ j, 5 ≤ j ∧ j ≤ 31 ∧ w.getLsbD j = true)) ∧
    decode w ≠ .error .notPowered

/-- Rule R89: the match and mask of every row say exactly which words decode to it, and FIRE's row of five also matches the words
with WAIT_MODE = 3, which are rejected. -/
def Obligations.RowsMatchExactlyTheirWords : Prop :=
  (∀ (w : Word) (i : Instr), decode w = .ok i → w &&& i.rowMask = i.rowMatch) ∧
  (∀ w : Word, w &&& 0xFFFFFFFF = 0x00000001 → decode w = .ok .powerUp) ∧
  (∀ w : Word, w &&& 0xFFFFFFFF = 0x00000002 → decode w = .ok .powerDown) ∧
  (∀ w : Word, w &&& 0x0000FFFF = 0x00000003 → decode w = .ok (.fireNone (timeoutField w).toNat)) ∧
  (∀ w : Word, w &&& 0x0000FFFF = 0x00000013 → decode w = .ok (.fireHigh (timeoutField w).toNat)) ∧
  (∀ w : Word, w &&& 0x0000FFFF = 0x00000023 → decode w = .ok (.fireLow (timeoutField w).toNat)) ∧
  (∀ w : Word, w &&& 0x000000EF = 0x00000004 → decode w = .ok (.advance (stepsField w).toInt (keepField w))) ∧
  (∀ w : Word, w &&& 0xFFFFFFEF = 0x00000005 → decode w = .ok (.home (keepField w))) ∧
  (∀ w : Word, w &&& 0x0000FFCF = 0x00000003 ↔
    (∃ n, decode w = .ok (.fireNone n) ∨ decode w = .ok (.fireHigh n) ∨ decode w = .ok (.fireLow n)) ∨
    (w &&& 0x0000FFCF = 0x00000003 ∧ waitModeField w = 3 ∧ decode w = .error .reservedField))

/-- Words written out from the layouts of rules R81 to R84, and the operands rule R85 gives them. -/
def Obligations.SampleWordsDecode : Prop :=
  decode 0x00000001 = .ok .powerUp ∧ decode 0x00000002 = .ok .powerDown ∧
  decode 0x00050003 = .ok (.fireNone 5) ∧ decode 0x00030013 = .ok (.fireHigh 3) ∧
  decode 0xFFFF0023 = .ok (.fireLow 65535) ∧ decode 0xFFFA8804 = .ok (.advance (-1400) false) ∧
  decode 0x00057814 = .ok (.advance 1400 true) ∧ decode 0x80000004 = .ok (.advance (-8388608) false) ∧
  decode 0x00000015 = .ok (.home true) ∧ decode 0x00000033 = .error .reservedField ∧
  decode 0x00000000 = .error .illegalOpcode

/-- Rules R90 and R95: a command statement with its operands in range assembles to one write of its word to CMD and that word
disassembles to it; one with an operand out of range assembles to nothing. -/
def Obligations.AssemblyAndDisassemblyAgree : Prop :=
  ∀ (c : Config) (st : Stmt) (i : Instr), st.command? = some i →
    (i.wf = true →
      assemble c st = some [.access (.write (c.base + 0x00) 4 (encode i))] ∧
      disassemble (encode i) = .command st) ∧
    (i.wf = false → assemble c st = none)

/-! ## A CMD write: acceptance, rejection, overrun -/

/-- Rule R107: a CMD write while idle, whole. The word is decoded and rejected, or rejected as NOT_POWERED, or accepted: latched,
the mask snapshotted for FIRE, the transient PSTATE taken, the routine at its first micro-op; nothing else of the block changes. -/
def Obligations.IdleCommandWriteIsAcceptedOrRejected : Prop :=
  ∀ (s : State) (w : Word), s.Offers w → s.busy = false →
    ∃ t, step s = .next t ∧
      (∀ r, decode w = .error r → t = s.endCycle (s.rejectWith w r)) ∧
      (∀ i, decode w = .ok i →
        (commandRoutine i = .fire ∧ s.pstate ≠ .ready → t = s.endCycle (s.rejectWith w .notPowered)) ∧
        (¬(commandRoutine i = .fire ∧ s.pstate ≠ .ready) →
          t = s.endCycle
            { s with
              cmdLatch := w
              shiftBuf := if commandRoutine i = .fire then s.mask3 ++ s.mask2 ++ s.mask1 ++ s.mask0 else s.shiftBuf
              pstate := acceptedPState s.pstate i
              upc := (firstPosition s.cfg s.pstate i).1
              waitcnt := (firstPosition s.cfg s.pstate i).2
              acc := t.acc } ∧
          t.routine = commandRoutine i))

/-- Rules R220 and R221: a rejection writes RESULT with the code, OPC = w[3:0] and zeros, and nothing else (what the end of a cycle
does to the model's own fields apart), and never sets BUSY, so that a CMD write in the very next cycle can be accepted. -/
def Obligations.RejectionWritesResultOnly : Prop :=
  ∀ (s t : State) (w : Word) (r : Reject), s.Offers w → s.busy = false → step s = .next t →
    (decode w = .error r ∨
      (r = .notPowered ∧ s.pstate ≠ .ready ∧ ∃ i, decode w = .ok i ∧ commandRoutine i = .fire)) →
    t = s.endCycle { s with result := t.result } ∧ t.busy = false ∧
    resultErr t.result = (match r with | .illegalOpcode => 1 | .reservedField => 2 | .notPowered => 3) ∧
    resultOpc t.result = opcField w ∧ t.result.getLsbD 3 = false ∧ t.result.extractLsb' 8 24 = 0

/-- Rule R223: the priority of the checks on a CMD write, BUSY (an overrun, the word not decoded: the cycle is otherwise what it is
without the write), then ILLEGAL_OPCODE, then RESERVED_FIELD, then NOT_POWERED. -/
def Obligations.RejectionPriority : Prop :=
  ∀ (s t : State) (w : Word), s.Offers w → step s = .next t →
    (s.busy = true →
      ∃ u, step { s with inputs := { s.input with host := .quiet } :: s.inputs.tail } = .next u ∧
        t = { u with overrun := true }) ∧
    (s.busy = false → (opcField w = 0 ∨ 6 ≤ opcField w) → resultErr t.result = 1 ∧ t.overrun = s.overrun) ∧
    (s.busy = false → decode w = .error .reservedField → resultErr t.result = 2 ∧ t.overrun = s.overrun) ∧
    (s.busy = false → opcField w = 3 → w.extractLsb' 6 10 ≠ 0 → s.pstate = .off → resultErr t.result = 2) ∧
    (s.busy = false → (∃ i, decode w = .ok i ∧ commandRoutine i = .fire) → s.pstate ≠ .ready →
      resultErr t.result = 3 ∧ t.overrun = s.overrun)

/-- Rule R224: FIRE, in each of its three forms, while PSTATE is not READY, is rejected with code 3 and changes RESULT only. No
other command has a PSTATE precondition: it is taken and its routine runs. -/
def Obligations.FireIsRejectedUnlessReady : Prop :=
  ∀ (s : State) (i : Instr), s.busy = false → i.wf = true → s.pstate ≠ .ready →
    (commandRoutine i = .fire → exec i s = .next { s with result := 0x00000033 }) ∧
    (commandRoutine i ≠ .fire → ∃ t, exec i s = .next t ∧ t.busy = true ∧ t.result = s.result)

/-- Rule R109: a CMD write of any word while busy sets OVERRUN, and the cycle is otherwise what it is without the write; OVERRUN is
sticky: only a STATUS write with bit 3 set (rule R32) and RST clear it. -/
def Obligations.CommandWriteWhileBusyIsAnOverrun : Prop :=
  (∀ (s : State) (w : Word), s.Offers w → s.busy = true →
    ∃ t, step s = .next { t with overrun := true } ∧
      step { s with inputs := { s.input with host := .quiet } :: s.inputs.tail } = .next t) ∧
  (∀ s t : State, step s = .next t → s.overrun = true → t.overrun = false →
    s.input.rst = true ∨
    ∃ addr v, s.input.host = .write addr 4 v ∧ regAt s.cfg addr = some .status ∧ v.getLsbD 3 = true)

/-! ## POWER_UP and POWER_DOWN -/

/-- Rules R172, R174 and R175: POWER_UP from OFF, whole. It is taken, PSTATE reads RAILS_ENABLING through the routine, the rails
rise together in cycle 1 + T_PU1, the head reset is released in cycle 2 + T_PU1 + T_PU2, and after L = T_PU1 + T_PU2 + T_PU3 + 3
cycles PSTATE is READY and RESULT = 0x00000010. -/
def Obligations.PowerUpFromOffCompletes : Prop :=
  ∀ s : State, s.busy = false → s.pstate = .off →
    ∃ t, exec .powerUp s = .next t ∧
      t = { s with
            pstate := .railsEnabling, cmdLatch := 0x00000001, upc := .powerUp .setRails, waitcnt := s.cfg.tPu1,
            acc := t.acc } ∧
      Completes t (powerUpLength s.cfg) (fun u =>
        u.cfg = s.cfg ∧ u.pstate = .ready ∧ u.result = 0x00000010 ∧ u.stepcount = s.stepcount ∧
        u.shiftBuf = s.shiftBuf ∧ u.cmdLatch = 0x00000001 ∧
        u.lines = { s.lines with rail1En := true, rail2En := true, headReset := false }) ∧
      (t.RunsFor (powerUpLength s.cfg) →
        levelTrace .rail1En (powerUpLength s.cfg) t
          = List.replicate s.cfg.tPu1 s.lines.rail1En ++ List.replicate (s.cfg.tPu2 + s.cfg.tPu3 + 3) true ∧
        levelTrace .rail2En (powerUpLength s.cfg) t
          = List.replicate s.cfg.tPu1 s.lines.rail2En ++ List.replicate (s.cfg.tPu2 + s.cfg.tPu3 + 3) true ∧
        levelTrace .headReset (powerUpLength s.cfg) t
          = List.replicate (s.cfg.tPu1 + s.cfg.tPu2 + 1) s.lines.headReset
            ++ List.replicate (s.cfg.tPu3 + 2) false ∧
        ∀ j < powerUpLength s.cfg, ∃ u, runCycles j t = .next u ∧ u.pstate = .railsEnabling)

/-- Rule R176: POWER_UP in READY is an accepted no-op of one cycle with RESULT = 0x00002010. -/
def Obligations.PowerUpInReadyIsANoop : Prop :=
  ∀ s : State, s.busy = false → s.pstate = .ready →
    ∃ t, exec .powerUp s = .next t ∧
      t = { s with cmdLatch := 0x00000001, upc := .powerUp .finish, waitcnt := 0, acc := t.acc } ∧
      Completes t 1 (fun u =>
        u.cfg = s.cfg ∧ u.pstate = .ready ∧ u.result = 0x00002010 ∧ u.stepcount = s.stepcount ∧
        u.shiftBuf = s.shiftBuf ∧ u.cmdLatch = 0x00000001 ∧ u.lines = s.lines)

/-- Rules R180, R181 and R182: POWER_DOWN from READY, whole. The head reset is asserted in cycle 1, the rails are cut together in
cycle 2 + T_PD1, and after L = T_PD1 + T_PD2 + 3 cycles PSTATE is OFF and RESULT = 0x00000020; the motor lines are not touched. -/
def Obligations.PowerDownFromReadyCompletes : Prop :=
  ∀ s : State, s.busy = false → s.pstate = .ready →
    ∃ t, exec .powerDown s = .next t ∧
      t = { s with
            pstate := .resetAsserting, cmdLatch := 0x00000002, upc := .powerDown .assertReset, waitcnt := 0,
            acc := t.acc } ∧
      Completes t (powerDownLength s.cfg) (fun u =>
        u.cfg = s.cfg ∧ u.pstate = .off ∧ u.result = 0x00000020 ∧ u.stepcount = s.stepcount ∧
        u.shiftBuf = s.shiftBuf ∧ u.cmdLatch = 0x00000002 ∧
        u.lines = { s.lines with rail1En := false, rail2En := false, headReset := true }) ∧
      (t.RunsFor (powerDownLength s.cfg) →
        levelTrace .headReset (powerDownLength s.cfg) t = List.replicate (powerDownLength s.cfg) true ∧
        levelTrace .rail1En (powerDownLength s.cfg) t
          = List.replicate (s.cfg.tPd1 + 1) s.lines.rail1En ++ List.replicate (s.cfg.tPd2 + 2) false ∧
        levelTrace .rail2En (powerDownLength s.cfg) t
          = List.replicate (s.cfg.tPd1 + 1) s.lines.rail2En ++ List.replicate (s.cfg.tPd2 + 2) false ∧
        ∀ j < powerDownLength s.cfg, ∃ u, runCycles j t = .next u ∧ u.pstate = .resetAsserting)

/-- Rule R183: POWER_DOWN in OFF is an accepted no-op of one cycle with RESULT = 0x00002020. -/
def Obligations.PowerDownInOffIsANoop : Prop :=
  ∀ s : State, s.busy = false → s.pstate = .off →
    ∃ t, exec .powerDown s = .next t ∧
      t = { s with cmdLatch := 0x00000002, upc := .powerDown .finish, waitcnt := 0, acc := t.acc } ∧
      Completes t 1 (fun u =>
        u.cfg = s.cfg ∧ u.pstate = .off ∧ u.result = 0x00002020 ∧ u.stepcount = s.stepcount ∧
        u.shiftBuf = s.shiftBuf ∧ u.cmdLatch = 0x00000002 ∧ u.lines = s.lines)

/-! ## FIRE -/

/-- Rules R147, R149 and R156: FIRE in READY, in each of its three forms, whole. After a ready-wait of W cycles, matched or not, it
shifts, strobes and samples; after L_FIRE = W + 2 L_ch + T_FW + 4 cycles RESULT holds OPC 3, RB_VALID, READY_OK, READY_TIMEOUT and
the levels sampled in cycle 3 + W + 2 L_ch + T_FW. PSTATE and STEPCOUNT are unchanged, and no line but the serial ones and FIRE_N
has changed: they stand idle, SDATA at nozzle 127. -/
def Obligations.FireInReadyCompletes : Prop :=
  ∀ (s : State) (i : Instr), s.busy = false → s.pstate = .ready → i.wf = true → commandRoutine i = .fire →
    let w := fireWait s.cfg i (fun j => (s.inputAt j).pins.ready)
    let waits : Bool := waitModeField (encode i) != 0
    let after := (s.inputAt (w.1 + 2 * channelLength s.cfg + s.cfg.tFw + 2)).pins
    ∃ t, exec i s = .next t ∧
      t = { s with
            cmdLatch := encode i, shiftBuf := s.mask3 ++ s.mask2 ++ s.mask1 ++ s.mask0,
            upc := (firstPosition s.cfg s.pstate i).1, waitcnt := 0, acc := t.acc } ∧
      Completes t (fireLength s.cfg w.1) (fun u =>
        u.cfg = s.cfg ∧ u.pstate = .ready ∧ u.stepcount = s.stepcount ∧ u.shiftBuf = s.mask ∧ u.cmdLatch = encode i ∧
        resultErr u.result = 0 ∧ resultOpc u.result = 3 ∧ resultRbValid u.result = waits ∧
        resultReadyOk u.result = w.2 ∧ resultReadyTimeout u.result = (waits && !w.2) ∧
        resultReadyAfter u.result = after.ready ∧ resultFaultAfter u.result = after.fault ∧
        resultEndstopHit u.result = false ∧ resultNoop u.result = false ∧ resultHomeExhausted u.result = false ∧
        u.lines = { s.lines with
                    sclk := true, sdata := nozzleBit s.mask 127, csAN := true, csBN := true, fireN := true })

/-- Rules R148 and R156: the ready-wait. If the k-th of N samples, one every 1 + T_POLL cycles, is the first at the awaited level,
W = (k - 1)(1 + T_POLL) + 1 and READY_OK = 1; if none is, W = N (1 + T_POLL) and READY_OK = 0. -/
def Obligations.ReadyWaitLength : Prop :=
  ∀ (tPoll : Nat) (want : Bool) (level : Nat → Bool) (n : Nat),
    (∀ k, 1 ≤ k → k ≤ n → level ((k - 1) * (1 + tPoll)) = want →
      (∀ j, 1 ≤ j → j < k → level ((j - 1) * (1 + tPoll)) ≠ want) →
      readyWait tPoll want level n = ((k - 1) * (1 + tPoll) + 1, true)) ∧
    ((∀ k, 1 ≤ k → k ≤ n → level ((k - 1) * (1 + tPoll)) ≠ want) →
      readyWait tPoll want level n = (n * (1 + tPoll), false))

/-- Rule R157(1): every accepted FIRE, whatever the host writes meanwhile, makes exactly 128 rising edges of SCLK: at the k-th of the
first 64 only CHANNEL_A is selected and SDATA is nozzle k of the mask as it stood at acceptance, at the k-th of the last 64 only
CHANNEL_B is selected and SDATA is nozzle 64 + k. The premise `SerialInv` rules out lines no run reaches. -/
def Obligations.FireShiftsTheMaskOnItsClockEdges : Prop :=
  ∀ (s t : State) (i : Instr), s.busy = false → s.pstate = .ready → i.wf = true → commandRoutine i = .fire →
    SerialInv s → exec i s = .next t →
    let n := fireLength s.cfg (fireWait s.cfg i (fun j => (s.inputAt j).pins.ready)).1
    t.RunsFor n →
    gather sclkEdge n t
      = (List.range 64).map (fun k => ⟨false, true, nozzleBit s.mask k⟩)
        ++ (List.range 64).map (fun k => ⟨true, false, nozzleBit s.mask (64 + k)⟩)

/-- Rules R133 to R138, R150 and R151: the exact levels of CS_A_N, CS_B_N, SCLK, SDATA and FIRE_N in every cycle of a FIRE. -/
def Obligations.FireLineTiming : Prop :=
  ∀ (s t : State) (i : Instr), s.busy = false → s.pstate = .ready → i.wf = true → commandRoutine i = .fire →
    exec i s = .next t →
    let w := (fireWait s.cfg i (fun j => (s.inputAt j).pins.ready)).1
    let l := channelLength s.cfg
    let c := s.cfg
    let bits := repeated 64 (List.replicate (c.tSu + 2) false ++ List.replicate (c.tHi + 1) true)
    let data := fun n => List.replicate (bitPeriod c) (nozzleBit s.mask n)
    t.RunsFor (fireLength c w) →
    levelTrace .csAN (fireLength c w) t
      = List.replicate w s.lines.csAN ++ List.replicate (l - 1) false ++ List.replicate (l + c.tFw + 5) true ∧
    levelTrace .csBN (fireLength c w) t
      = List.replicate (w + l) s.lines.csBN ++ List.replicate (l - 1) false ++ List.replicate (c.tFw + 5) true ∧
    levelTrace .sclk (fireLength c w) t
      = List.replicate (w + 1 + c.tCss) s.lines.sclk ++ bits ++ List.replicate (c.tCsh + 1 + 1 + c.tCss) true ++ bits
        ++ List.replicate (c.tCsh + 1 + c.tFw + 4) true ∧
    levelTrace .sdata (fireLength c w) t
      = List.replicate (w + 2 + c.tCss) s.lines.sdata ++ (List.range 63).flatMap data
        ++ List.replicate (bitPeriod c + c.tCsh + 2 + c.tCss) (nozzleBit s.mask 63)
        ++ (List.range 63).flatMap (fun k => data (64 + k))
        ++ List.replicate (bitPeriod c + c.tCsh + c.tFw + 4) (nozzleBit s.mask 127) ∧
    levelTrace .fireN (fireLength c w) t
      = List.replicate (w + 2 * l) s.lines.fireN ++ List.replicate (c.tFw + 1) false ++ List.replicate 3 true

/-- Rules R9 and R151: in every configuration the strobe, T_FW + 1 cycles, is at least FIRE_MIN_NS and at least 1000 ns long. That the
two values in ns are whole numbers is the model's choice (log 23). -/
def Obligations.StrobeWidthMeetsTheMinimum : Prop :=
  ∀ c : Config, 1000 ≤ c.fireMinNs ∧ c.fireMinNs ≤ fireLowNs c

/-! ## ADVANCE and HOME -/

/-- Rules R193, R194 and R196: ADVANCE by a count other than 0, whole: after L = 3 + T_MEN + n (2 + T_STH + T_STL) + (1 - KEEP) cycles
STEPCOUNT = |STEPS| and RESULT = 0x00000040, MOTOR_DIR is the sign of the count and MOTOR_EN is KEEP. -/
def Obligations.AdvanceCompletes : Prop :=
  ∀ (s : State) (steps : Int) (keep : Bool), s.busy = false → stepsOk steps = true → steps ≠ 0 →
    ∃ t, exec (.advance steps keep) s = .next t ∧
      t = { s with
            cmdLatch := encode (.advance steps keep), upc := .advance .setDir, waitcnt := 0, acc := t.acc } ∧
      Completes t (advanceLength s.cfg steps.natAbs keep) (fun u =>
        u.cfg = s.cfg ∧ u.pstate = s.pstate ∧ u.result = 0x00000040 ∧ u.stepcount.toNat = steps.natAbs ∧
        u.shiftBuf = s.shiftBuf ∧ u.cmdLatch = encode (.advance steps keep) ∧
        u.lines = { s.lines with motorEn := keep, motorDir := decide (0 < steps), motorStep := false })

/-- Rule R197(1): ADVANCE 0 is an accepted no-op of one cycle that changes no line, whatever KEEP is: STEPCOUNT = 0 and
RESULT = 0x00002040. -/
def Obligations.AdvanceZeroIsANoop : Prop :=
  ∀ (s : State) (keep : Bool), s.busy = false →
    ∃ t, exec (.advance 0 keep) s = .next t ∧
      t = { s with cmdLatch := encode (.advance 0 keep), upc := .advance .finish, waitcnt := 0, acc := t.acc } ∧
      Completes t 1 (fun u =>
        u.cfg = s.cfg ∧ u.pstate = s.pstate ∧ u.result = 0x00002040 ∧ u.stepcount = 0 ∧
        u.shiftBuf = s.shiftBuf ∧ u.cmdLatch = encode (.advance 0 keep) ∧ u.lines = s.lines)

/-- Rules R191, R195 and R196: the exact levels of MOTOR_STEP, MOTOR_EN and MOTOR_DIR in every cycle of an ADVANCE: |STEPS| pulses, each
high for T_STH + 1 cycles and then low for T_STL + 1, the driver enabled around them. -/
def Obligations.AdvancePulseTrain : Prop :=
  ∀ (s t : State) (steps : Int) (keep : Bool), s.busy = false → stepsOk steps = true → steps ≠ 0 →
    exec (.advance steps keep) s = .next t →
    let n := steps.natAbs
    let c := s.cfg
    t.RunsFor (advanceLength c n keep) →
    levelTrace .motorStep (advanceLength c n keep) t
      = List.replicate (2 + c.tMen) s.lines.motorStep
        ++ repeated n (List.replicate (c.tSth + 1) true ++ List.replicate (c.tStl + 1) false)
        ++ List.replicate (if keep then 1 else 2) false ∧
    levelTrace .motorEn (advanceLength c n keep) t
      = [s.lines.motorEn] ++ List.replicate (1 + c.tMen + n * (2 + c.tSth + c.tStl)) true
        ++ List.replicate (if keep then 1 else 2) keep ∧
    levelTrace .motorDir (advanceLength c n keep) t
      = List.replicate (advanceLength c n keep) (decide (0 < steps))

/-- Rule R195(2): ADVANCE n and ADVANCE -n with the same KEEP differ only in the value written to MOTOR_DIR (and in the latched
word): in every cycle every other line, BUSY, STEPCOUNT and RESULT are the same. -/
def Obligations.AdvanceForwardAndBackDifferOnlyInDirection : Prop :=
  ∀ (s t1 t2 : State) (steps : Int) (keep : Bool), s.busy = false → steps ≠ 0 → stepsOk steps = true →
    stepsOk (-steps) = true → exec (.advance steps keep) s = .next t1 → exec (.advance (-steps) keep) s = .next t2 →
    t1.RunsFor (advanceLength s.cfg steps.natAbs keep) →
    ∀ j ≤ advanceLength s.cfg steps.natAbs keep,
      ∃ u1 u2, runCycles j t1 = .next u1 ∧ runCycles j t2 = .next u2 ∧
        { u1.lines with motorDir := false } = { u2.lines with motorDir := false } ∧
        u1.busy = u2.busy ∧ u1.stepcount = u2.stepcount ∧ u1.result = u2.result ∧ u1.pstate = u2.pstate

/-- Rules R203 and R206: HOME, whole. It pulses in HOME_DIR until the ENDSTOP sample after a pulse is at ENDSTOP_TRIG or
HOME_MAX_STEPS pulses are done; after L = 3 + T_MEN + k (3 + T_STH + T_STL) + (1 - KEEP) cycles STEPCOUNT = k and RESULT says
ENDSTOP_HIT or HOME_EXHAUSTED. -/
def Obligations.HomeCompletes : Prop :=
  ∀ (s : State) (keep : Bool), s.busy = false →
    let k := homePulses s.cfg (fun j => (s.inputAt (2 + s.cfg.tMen + j)).pins.endstop) 0 s.cfg.homeMaxSteps
    ∃ t, exec (.home keep) s = .next t ∧
      t = { s with cmdLatch := encode (.home keep), upc := .home .setDir, waitcnt := 0, acc := t.acc } ∧
      Completes t (homeLength s.cfg k.1 keep) (fun u =>
        u.cfg = s.cfg ∧ u.pstate = s.pstate ∧ u.result = (if k.2 then 0x00001050 else 0x00008050) ∧
        u.stepcount.toNat = k.1 ∧ u.shiftBuf = s.shiftBuf ∧ u.cmdLatch = encode (.home keep) ∧
        u.lines = { s.lines with
                    motorEn := keep, motorDir := decide (s.cfg.homeDir = .pos), motorStep := false })

/-- Rules R204, R205 and R206: the number of pulses HOME issues: the index of the first sample that shows the endstop triggered, one
sample after each pulse and none before the first; HOME_MAX_STEPS where none does; always between 1 and HOME_MAX_STEPS. -/
def Obligations.HomePulseCount : Prop :=
  ∀ (c : Config) (level : Nat → Bool),
    let p := 3 + c.tSth + c.tStl
    let k := homePulses c level 0 c.homeMaxSteps
    1 ≤ k.1 ∧ k.1 ≤ c.homeMaxSteps ∧ k.1 ≤ 2 ^ 24 ∧
    (∀ i, 1 ≤ i → i < k.1 → level (i * p - 1) ≠ c.endstopTrig) ∧
    (k.2 = true ↔ level (k.1 * p - 1) = c.endstopTrig) ∧
    (k.2 = false → k.1 = c.homeMaxSteps)

/-- Rules R191, R203 and R206: the exact levels of MOTOR_STEP, MOTOR_EN and MOTOR_DIR in every cycle of a HOME of k pulses. -/
def Obligations.HomePulseTrain : Prop :=
  ∀ (s t : State) (keep : Bool), s.busy = false → exec (.home keep) s = .next t →
    let c := s.cfg
    let k := (homePulses c (fun j => (s.inputAt (2 + c.tMen + j)).pins.endstop) 0 c.homeMaxSteps).1
    t.RunsFor (homeLength c k keep) →
    levelTrace .motorStep (homeLength c k keep) t
      = List.replicate (2 + c.tMen) s.lines.motorStep
        ++ repeated k (List.replicate (c.tSth + 1) true ++ List.replicate (c.tStl + 2) false)
        ++ List.replicate (if keep then 1 else 2) false ∧
    levelTrace .motorEn (homeLength c k keep) t
      = [s.lines.motorEn] ++ List.replicate (1 + c.tMen + k * (3 + c.tSth + c.tStl)) true
        ++ List.replicate (if keep then 1 else 2) keep ∧
    levelTrace .motorDir (homeLength c k keep) t
      = List.replicate (homeLength c k keep) (decide (c.homeDir = .pos))

/-! ## All routines -/

/-- Rule R265: every accepted command's routine ends within the bound the rule gives, whatever the inputs and the host do. -/
def Obligations.EveryRoutineEndsWithinItsBound : Prop :=
  ∀ (s t : State) (i : Instr), s.busy = false → i.wf = true → (commandRoutine i = .fire → s.pstate = .ready) →
    (s.pstate = .off ∨ s.pstate = .ready) → exec i s = .next t →
    let c := s.cfg
    let bound := match i with
      | .powerUp => c.tPu1 + c.tPu2 + c.tPu3 + 3
      | .powerDown => c.tPd1 + c.tPd2 + 3
      | .fireNone n => n * (1 + c.tPoll) + 2 * channelLength c + c.tFw + 4
      | .fireHigh n => n * (1 + c.tPoll) + 2 * channelLength c + c.tFw + 4
      | .fireLow n => n * (1 + c.tPoll) + 2 * channelLength c + c.tFw + 4
      | .advance steps _ => 4 + c.tMen + steps.natAbs * (2 + c.tSth + c.tStl)
      | .home _ => 4 + c.tMen + c.homeMaxSteps * (3 + c.tSth + c.tStl)
    t.RunsFor bound →
    ∃ n u, 1 ≤ n ∧ n ≤ bound ∧ runCycles n t = .next u ∧ u.busy = false ∧
      ∀ j < n, ∃ v, runCycles j t = .next v ∧ v.busy = true

/-- The frame of a cycle without RST, for every routine: a line the running routine does not write keeps its level, and none changes
while idle (rules R21, R157(3), R172, R180, R190); STEPCOUNT changes only at the `done` of a motor routine (rule R35); CMD_LATCH and
SHIFT_BUF change only in an idle cycle with a CMD write, SHIFT_BUF only for FIRE (rules R41, R42); RESULT only at a `done` or in such
a cycle (rule R33). The configuration never changes (rule R8). An idle block stays idle, at its position, with its PSTATE, unless
the host writes CMD; a routine starts only as that of the command such a write decodes to (rules R107, R251: the block "waits for a
CMD write"); a running routine is not replaced by another, and ends only at its `done`, into idle (rules R105, R110). That WAITCNT
and the accumulators keep their values while idle is hidden state as the model holds it (logs 8 and 9). -/
def Obligations.CycleFrame : Prop :=
  ∀ s t : State, step s = .next t → s.input.rst = false →
    (∀ l, l ∉ routineLines s.routine → t.lines.get l = s.lines.get l) ∧
    (t.stepcount ≠ s.stepcount → s.AtOp (.advance .finish) ∨ s.AtOp (.home .finish)) ∧
    (t.cmdLatch ≠ s.cmdLatch → s.busy = false ∧ s.Offers t.cmdLatch) ∧
    (t.shiftBuf ≠ s.shiftBuf →
      t.shiftBuf = s.mask ∧ t.routine = .fire ∧ s.busy = false ∧ ∃ w, s.Offers w) ∧
    (t.result ≠ s.result →
      (s.busy = true ∧ s.waitcnt = 0 ∧ t.busy = false) ∨
      (s.busy = false ∧ t.busy = false ∧ ∃ w, s.Offers w)) ∧
    t.cfg = s.cfg ∧
    (s.busy = false → (¬∃ w, s.Offers w) →
      t.busy = false ∧ t.upc = s.upc ∧ t.pstate = s.pstate ∧ t.waitcnt = s.waitcnt ∧ t.acc = s.acc) ∧
    (s.busy = false → t.busy = true → ∃ w i, s.Offers w ∧ decode w = .ok i ∧ t.routine = commandRoutine i) ∧
    (s.busy = true → t.routine = s.routine ∨
      (t.busy = false ∧ (s.AtOp (.powerUp .finish) ∨ s.AtOp (.powerDown .finish) ∨ s.AtOp (.fire .finish) ∨
        s.AtOp (.advance .finish) ∨ s.AtOp (.home .finish))))

/-- Rules R36, R41, R65 and R66(5): the staging mask and OVERRUN are the host's: in a cycle without RST a MASK register changes only
by a write to it, and OVERRUN only by a CMD write while busy or a STATUS write. -/
def Obligations.OnlyTheHostWritesMaskAndOverrun : Prop :=
  ∀ s t : State, step s = .next t → s.input.rst = false →
    (∀ addr v, s.input.host = .write addr 4 v → regAt s.cfg addr = some .mask0 → t.mask0 = v) ∧
    (∀ addr v, s.input.host = .write addr 4 v → regAt s.cfg addr = some .mask1 → t.mask1 = v) ∧
    (∀ addr v, s.input.host = .write addr 4 v → regAt s.cfg addr = some .mask2 → t.mask2 = v) ∧
    (∀ addr v, s.input.host = .write addr 4 v → regAt s.cfg addr = some .mask3 → t.mask3 = v) ∧
    ((¬∃ addr v, s.input.host = .write addr 4 v ∧ regAt s.cfg addr = some .mask0) → t.mask0 = s.mask0) ∧
    ((¬∃ addr v, s.input.host = .write addr 4 v ∧ regAt s.cfg addr = some .mask1) → t.mask1 = s.mask1) ∧
    ((¬∃ addr v, s.input.host = .write addr 4 v ∧ regAt s.cfg addr = some .mask2) → t.mask2 = s.mask2) ∧
    ((¬∃ addr v, s.input.host = .write addr 4 v ∧ regAt s.cfg addr = some .mask3) → t.mask3 = s.mask3) ∧
    (t.overrun ≠ s.overrun →
      (t.overrun = true ∧ s.busy = true ∧ ∃ w, s.Offers w) ∨
      (t.overrun = false ∧ ∃ addr v, s.input.host = .write addr 4 v ∧ regAt s.cfg addr = some .status ∧
        v.getLsbD 3 = true))

/-- Rule R102: a running wait of n cycles lasts exactly n cycles, whatever the inputs and the host do, and changes no line and no
register of the sequencer but WAITCNT: after j of them n - j are left, and after n the next micro-op is due. -/
def Obligations.WaitHoldsEverythingForExactlyItsCycles : Prop :=
  ∀ (s : State) (n : Nat), s.busy = true → s.waitcnt = n → s.RunsFor n →
    ∀ j ≤ n, ∃ u, runCycles j s = .next u ∧
      u.waitcnt = n - j ∧ u.lines = s.lines ∧ u.pstate = s.pstate ∧ u.result = s.result ∧
      u.stepcount = s.stepcount ∧ u.upc = s.upc ∧ u.shiftBuf = s.shiftBuf ∧ u.cmdLatch = s.cmdLatch ∧ u.acc = s.acc

/-- Rule R66(3) to (5): the order of the host's write and the sequencer's micro-op within a cycle is immaterial. -/
def Obligations.HostWriteAndMicroOpCommute : Prop :=
  (∀ (s : State) (r : Reg) (v : Word), seqCycle (s.writeReg r v) = (seqCycle s).writeReg r v) ∧
  (∀ s : State, seqCycle s.overrunWrite = (seqCycle s).overrunWrite)

/-- Rules R41 and R73: what stands in MASK0 to MASK3 while a routine runs has no influence on it: two states that differ only there go
on alike in everything but MASK0 to MASK3 and what a host read returns. -/
def Obligations.MaskRegistersDoNotAffectARunningRoutine : Prop :=
  ∀ (s t : State) (m0 m1 m2 m3 : Word), s.busy = true → step s = .next t →
    ∃ t', step { s with mask0 := m0, mask1 := m1, mask2 := m2, mask3 := m3 } = .next t' ∧
      t' = { t with
             mask0 := t'.mask0, mask1 := t'.mask1, mask2 := t'.mask2, mask3 := t'.mask3, readData := t'.readData }

/-- Rule R44: the accumulators are unobservable between commands: whatever they hold while the block is idle, the next cycle is the
same in everything else, and a command that it starts runs the same. -/
def Obligations.IdleAccumulatorsAreUnobservable : Prop :=
  ∀ (s t : State) (a : Acc), s.busy = false → step s = .next t →
    ∃ t', step { s with acc := a } = .next t' ∧ t' = { t with acc := t'.acc } ∧ (t.busy = true → t' = t)

/-! ## Host-visible registers -/

/-- Rules R29, R30, R65(a) and R66(2): a host read in a cycle without RST returns the register as it stands at the start of the cycle,
CMD and unmapped words as 0, and has no side effect: the cycle is otherwise what it is without the read. -/
def Obligations.HostReadReturnsTheRegister : Prop :=
  ∀ (s : State) (addr : Nat) (r : Reg), s.input.rst = false → s.input.host = .read addr 4 →
    regAt s.cfg addr = some r →
    ∃ t, step s = .next t ∧
      t.readData = some (match r with
        | .cmd => 0
        | .status => s.statusWord s.input.pins
        | .result => s.result
        | .stepcount => s.stepcount
        | .mask0 => s.mask0
        | .mask1 => s.mask1
        | .mask2 => s.mask2
        | .mask3 => s.mask3
        | .lines => s.lines.word
        | .unmapped => 0) ∧
      step { s with inputs := { s.input with host := .quiet } :: s.inputs.tail } = .next { t with readData := none }

/-- Rules R32, R61 and R65(c) to (e): a host write to a register other than CMD. A STATUS write clears OVERRUN if its bit 3 is 1, a MASK
write replaces the register, the others are ignored; the cycle is otherwise what it is without the write. -/
def Obligations.HostWriteSetsItsRegisterOnly : Prop :=
  ∀ (s : State) (addr : Nat) (v : Word) (r : Reg), s.input.rst = false → s.input.host = .write addr 4 v →
    regAt s.cfg addr = some r → r ≠ .cmd →
    ∃ t, step { s with inputs := { s.input with host := .quiet } :: s.inputs.tail } = .next t ∧
      step s = .next (match r with
        | .status => { t with overrun := if v.getLsbD 3 then false else t.overrun }
        | .mask0 => { t with mask0 := v }
        | .mask1 => { t with mask1 := v }
        | .mask2 => { t with mask2 := v }
        | .mask3 => { t with mask3 := v }
        | .cmd => t
        | .result => t
        | .stepcount => t
        | .lines => t
        | .unmapped => t)

/-- Rules R36 and R92: a host program that is one `load_mask` of 16 bytes takes four cycles, and then nozzle n of the staging mask is
bit 7 - (n mod 8) of byte n div 8; with another number of bytes it is an assembly error. Two of its points are the model's own: the four cycles are the
runner's pace, one access a cycle (log 20, DESIGN CHOICE), and the assembly error is read from "taking 16 byte literals" (log 25,
DEDUCED). -/
def Obligations.LoadMaskLoadsTheNozzles : Prop :=
  (∀ (s : State) (bytes : List Byte), bytes.length = 16 → (∀ j < 4, (s.inputAt j).rst = false) →
    ∃ actions t, assemble s.cfg (.loadMask bytes) = some actions ∧
      Run.go 4 { block := s, todo := actions, reads := [] } = .next { block := t, todo := [], reads := [] } ∧
      ∀ n < 128, nozzleBit t.mask n = (bytes.getD (n / 8) 0).getLsbD (7 - n % 8)) ∧
  (∀ (c : Config) (bytes : List Byte), bytes.length ≠ 16 → assemble c (.loadMask bytes) = none)

/-- Rule R29: the offsets of the registers in the window. -/
def Obligations.RegisterOffsets : Prop :=
  ∀ c : Config,
    regAt c (c.base + 0x00) = some .cmd ∧ regAt c (c.base + 0x04) = some .status ∧
    regAt c (c.base + 0x08) = some .result ∧ regAt c (c.base + 0x0C) = some .stepcount ∧
    regAt c (c.base + 0x10) = some .mask0 ∧ regAt c (c.base + 0x14) = some .mask1 ∧
    regAt c (c.base + 0x18) = some .mask2 ∧ regAt c (c.base + 0x1C) = some .mask3 ∧
    regAt c (c.base + 0x20) = some .lines

/-- Rule R31: every bit of STATUS. -/
def Obligations.StatusFields : Prop :=
  ∀ (s : State) (p : Pins),
    ((s.statusWord p).extractLsb' 0 2).toNat
      = (match s.pstate with | .off => 0 | .railsEnabling => 1 | .ready => 2 | .resetAsserting => 3) ∧
    (s.statusWord p).getLsbD 2 = s.busy ∧ (s.statusWord p).getLsbD 3 = s.overrun ∧
    (s.statusWord p).getLsbD 4 = p.ready ∧ (s.statusWord p).getLsbD 5 = p.fault ∧
    (s.statusWord p).getLsbD 6 = p.endstop ∧ ∀ j, 7 ≤ j → (s.statusWord p).getLsbD j = false

/-- Rule R37: every bit of LINES. -/
def Obligations.LinesFields : Prop :=
  ∀ l : Lines,
    l.word.getLsbD 0 = l.sclk ∧ l.word.getLsbD 1 = l.sdata ∧ l.word.getLsbD 2 = l.csAN ∧ l.word.getLsbD 3 = l.csBN ∧
    l.word.getLsbD 4 = l.fireN ∧ l.word.getLsbD 5 = l.rail1En ∧ l.word.getLsbD 6 = l.rail2En ∧
    l.word.getLsbD 7 = l.headReset ∧ l.word.getLsbD 8 = l.motorEn ∧ l.word.getLsbD 9 = l.motorDir ∧
    l.word.getLsbD 10 = l.motorStep ∧ ∀ j, 11 ≤ j → l.word.getLsbD j = false

/-- Rule R36: the staging mask's nozzles in the register file, in the order the link shifts them (rule R132). -/
def Obligations.NozzleBitMap : Prop :=
  ∀ s : State,
    (∀ n < 128, nozzleBit s.mask n
      = (match n / 32 with | 0 => s.mask0 | 1 => s.mask1 | 2 => s.mask2 | _ => s.mask3).getLsbD
          (8 * (n / 8 % 4) + 7 - n % 8)) ∧
    (∀ ch : Channel, ∀ k < 64, streamBit s.mask ch k
      = nozzleBit s.mask (64 * (match ch with | .a => 0 | .b => 1) + k))

/-- Rules R15 and R202: the physical level of every output pin, and the endstop level that means "triggered". -/
def Obligations.PinPolarity : Prop :=
  ∀ s : State,
    s.outputPin .headReset = (if s.lines.headReset then s.cfg.polReset else !s.cfg.polReset) ∧
    s.outputPin .rail1En = (if s.lines.rail1En then s.cfg.polRail1 else !s.cfg.polRail1) ∧
    s.outputPin .rail2En = (if s.lines.rail2En then s.cfg.polRail2 else !s.cfg.polRail2) ∧
    s.outputPin .motorEn = (if s.lines.motorEn then s.cfg.polMen else !s.cfg.polMen) ∧
    s.outputPin .motorDir = (if s.lines.motorDir then s.cfg.polDirPos else !s.cfg.polDirPos) ∧
    s.outputPin .sclk = s.lines.sclk ∧ s.outputPin .fireN = s.lines.fireN ∧ s.outputPin .csAN = s.lines.csAN ∧
    s.outputPin .csBN = s.lines.csBN ∧ s.outputPin .sdata = s.lines.sdata ∧
    s.outputPin .motorStep = s.lines.motorStep ∧
    ∀ level, endstopTriggered s.cfg level = true ↔ level = s.cfg.endstopTrig

/-! ## Invariants -/

/-- Rules R26, R27 and R185, as an invariant every step keeps: PSTATE and the power lines agree at every position of every routine. -/
def Obligations.StepKeepsPowerInvariant : Prop :=
  ∀ s t : State, PowerInv s → step s = .next t → PowerInv t

/-- What the power invariant is for (rules R27 and R185): idle OFF has the rails off and the reset asserted, idle READY has them on
and released, the reset is never released while a rail is off, and the strobe is low only in READY with the head on. -/
def Obligations.PowerInvariantProtectsTheHead : Prop :=
  ∀ s : State, PowerInv s → SerialInv s →
    (s.busy = false → s.pstate = .off →
      s.lines.rail1En = false ∧ s.lines.rail2En = false ∧ s.lines.headReset = true) ∧
    (s.busy = false → s.pstate = .ready →
      s.lines.rail1En = true ∧ s.lines.rail2En = true ∧ s.lines.headReset = false) ∧
    (s.busy = false → s.pstate = .off ∨ s.pstate = .ready) ∧
    (s.lines.headReset = false → s.lines.rail1En = true ∧ s.lines.rail2En = true) ∧
    (s.lines.fireN = false ∨ s.lines.csAN = false ∨ s.lines.csBN = false →
      s.pstate = .ready ∧ s.lines.rail1En = true ∧ s.lines.rail2En = true ∧ s.lines.headReset = false)

/-- Rule R185(2) to (4): outside RST, the rails change only while the head reset is asserted, before the cycle and after it. -/
def Obligations.RailsChangeOnlyUnderReset : Prop :=
  ∀ s t : State, PowerInv s → step s = .next t → s.input.rst = false →
    (t.lines.rail1En ≠ s.lines.rail1En ∨ t.lines.rail2En ≠ s.lines.rail2En) →
    s.lines.headReset = true ∧ t.lines.headReset = true ∧ t.lines.rail1En = t.lines.rail2En

/-- Rule R26: the only changes of PSTATE. -/
def Obligations.PowerStateTransitions : Prop :=
  ∀ s t : State, PowerInv s → step s = .next t →
    (s.input.rst = true → t.pstate = .off) ∧
    (s.input.rst = false → t.pstate ≠ s.pstate →
      (s.pstate = .off ∧ t.pstate = .railsEnabling ∧ s.busy = false ∧ s.Offers 0x00000001) ∨
      (s.pstate = .railsEnabling ∧ t.pstate = .ready ∧ s.AtOp (.powerUp .finish)) ∨
      (s.pstate = .ready ∧ t.pstate = .resetAsserting ∧ s.busy = false ∧ s.Offers 0x00000002) ∨
      (s.pstate = .resetAsserting ∧ t.pstate = .off ∧ s.AtOp (.powerDown .finish))) ∧
    (t.pstate = .railsEnabling ∨ t.pstate = .resetAsserting → t.busy = true)

/-- Rules R135, R136 and R151, as an invariant every step keeps: SCLK, the chip selects and FIRE_N stand as each position of FIRE needs
them, and idle outside it. -/
def Obligations.StepKeepsSerialInvariant : Prop :=
  ∀ s t : State, SerialInv s → step s = .next t → SerialInv t

/-- What the serial invariant is for (rules R136 and R151): the two chip selects are never 0 together, and while the strobe is low the
clock is high and no channel is selected. -/
def Obligations.ChipSelectsNeverOverlap : Prop :=
  ∀ s : State, SerialInv s →
    (s.lines.csAN = true ∨ s.lines.csBN = true) ∧
    (s.lines.fireN = false → s.lines.sclk = true ∧ s.lines.csAN = true ∧ s.lines.csBN = true) ∧
    (s.lines.sclk = false → s.routine = .fire)

/-- Rules R191 and R195(3), (4), as an invariant every step keeps: MOTOR_STEP is 1 only within a pulse of a motor routine, with the
driver enabled. -/
def Obligations.StepKeepsMotorInvariant : Prop :=
  ∀ s t : State, MotorInv s → step s = .next t →
    MotorInv t ∧ (t.lines.motorStep = true → t.lines.motorEn = true ∧ (t.routine = .advance ∨ t.routine = .home))

/-- Rule R42, as an invariant every step keeps: while a routine runs, CMD_LATCH decodes to a command of that routine. -/
def Obligations.StepKeepsLatchedCommand : Prop :=
  ∀ s t : State, LatchInv s → step s = .next t → LatchInv t

/-- Rule R114 bounds the loop counts, the wait counts and STEPCOUNT; as an invariant every step keeps: the loop indices stay in their
loops' ranges, WAITCNT within two delays and 0 while idle, STEPCOUNT within 2^24. The bounds of WAITCNT are the model's own (log 9,
DESIGN CHOICE: T_HI and T_CSH after a channel's last bit are one count), and so are the clauses of `IndexInv` about the accumulators
(log 8, DEDUCED). -/
def Obligations.StepKeepsCountersInRange : Prop :=
  ∀ s t : State, IndexInv s → CountInv s → WaitInv s → step s = .next t → IndexInv t ∧ CountInv t ∧ WaitInv t

/-- Rules R33, R34 and R222, as an invariant every step keeps: the reserved bits of RESULT are 0, ERR is 0 to 3, and READY_TIMEOUT and
HOME_EXHAUSTED are the functions of the other fields the rule gives. -/
def Obligations.StepKeepsResultForm : Prop :=
  ∀ s t : State, ResultInv s → step s = .next t → ResultInv t

/-- The reset state of every configuration meets every invariant (rules R22, R251). -/
def Obligations.ResetMeetsTheInvariants : Prop :=
  ∀ c : Config,
    PowerInv (State.resetWith c) ∧ SerialInv (State.resetWith c) ∧ MotorInv (State.resetWith c) ∧
    LatchInv (State.resetWith c) ∧ IndexInv (State.resetWith c) ∧ CountInv (State.resetWith c) ∧
    WaitInv (State.resetWith c) ∧ ResultInv (State.resetWith c)
end

