-- ==== Sys2Proof/Laws/Decode.lean ====
section
/-! SUPPORT. The fields of an encoded command word, one lemma per field and layout (spec/30_encoding.md rules R81 to R85). -/

namespace Sys2Proof

@[simp] theorem opcField_layoutP (o : BitVec 4) : opcField (layoutP o) = o := by
  ext i hi
  simp only [opcField, layoutP, BitVec.getElem_extractLsb', BitVec.getLsbD_append]
  rw [if_pos (by omega), Nat.zero_add, BitVec.getLsbD_eq_getElem hi]

@[simp] theorem opcField_layoutF (t : BitVec 16) (m : BitVec 2) : opcField (layoutF t m) = 3 := by
  ext i hi
  simp only [opcField, layoutF, BitVec.getElem_extractLsb', BitVec.getLsbD_append]
  rw [if_pos (by omega), Nat.zero_add, BitVec.getLsbD_eq_getElem hi]
  rfl

@[simp] theorem waitModeField_layoutF (t : BitVec 16) (m : BitVec 2) : waitModeField (layoutF t m) = m := by
  ext i hi
  simp only [waitModeField, layoutF, BitVec.getElem_extractLsb', BitVec.getLsbD_append]
  rw [if_neg (by omega), if_pos (by omega), show 4 + i - 4 = i by omega, BitVec.getLsbD_eq_getElem hi]

@[simp] theorem timeoutField_layoutF (t : BitVec 16) (m : BitVec 2) : timeoutField (layoutF t m) = t := by
  ext i hi
  simp only [timeoutField, layoutF, BitVec.getElem_extractLsb', BitVec.getLsbD_append]
  rw [if_neg (by omega), if_neg (by omega), if_neg (by omega), show 16 + i - 4 - 2 - 10 = i by omega,
    BitVec.getLsbD_eq_getElem hi]

theorem reserved_layoutF (t : BitVec 16) (m : BitVec 2) : (layoutF t m).extractLsb' 6 10 = 0 := by
  ext i hi
  simp only [layoutF, BitVec.getElem_extractLsb', BitVec.getLsbD_append]
  rw [if_neg (by omega), if_neg (by omega), if_pos (by omega)]
  simp

@[simp] theorem opcField_layoutM (t : BitVec 24) (k : Bool) : opcField (layoutM t k) = 4 := by
  ext i hi
  simp only [opcField, layoutM, BitVec.getElem_extractLsb', BitVec.getLsbD_append]
  rw [if_pos (by omega), Nat.zero_add, BitVec.getLsbD_eq_getElem hi]
  rfl

@[simp] theorem stepsField_layoutM (t : BitVec 24) (k : Bool) : stepsField (layoutM t k) = t := by
  ext i hi
  simp only [stepsField, layoutM, BitVec.getElem_extractLsb', BitVec.getLsbD_append]
  rw [if_neg (by omega), if_neg (by omega), if_neg (by omega), show 8 + i - 4 - 1 - 3 = i by omega,
    BitVec.getLsbD_eq_getElem hi]

@[simp] theorem keepField_layoutM (t : BitVec 24) (k : Bool) : keepField (layoutM t k) = k := by
  unfold keepField layoutM
  simp only [BitVec.getLsbD_append, BitVec.getLsbD_ofBool]
  simp

theorem reserved_layoutM (t : BitVec 24) (k : Bool) : (layoutM t k).extractLsb' 5 3 = 0 := by
  ext i hi
  simp only [layoutM, BitVec.getElem_extractLsb', BitVec.getLsbD_append]
  rw [if_neg (by omega), if_neg (by omega), if_pos (by omega)]
  simp

@[simp] theorem opcField_layoutH (k : Bool) : opcField (layoutH k) = 5 := by
  ext i hi
  simp only [opcField, layoutH, BitVec.getElem_extractLsb', BitVec.getLsbD_append]
  rw [if_pos (by omega), Nat.zero_add, BitVec.getLsbD_eq_getElem hi]
  rfl

@[simp] theorem keepField_layoutH (k : Bool) : keepField (layoutH k) = k := by
  cases k <;> decide

theorem reserved_layoutH (k : Bool) : (layoutH k).extractLsb' 5 27 = 0 := by
  cases k <;> decide

/-- A TIMEOUT in range is held exactly by its 16-bit field (rule R82). -/
theorem toNat_timeout {n : Nat} (h : timeoutOk n = true) : (BitVec.ofNat 16 n).toNat = n := by
  simp only [timeoutOk, decide_eq_true_eq] at h
  rw [BitVec.toNat_ofNat]
  exact Nat.mod_eq_of_lt (by omega)

/-- A step count in range is held exactly by its 24-bit two's-complement field (rule R83). -/
theorem toInt_steps {s : Int} (h : stepsOk s = true) : (BitVec.ofInt 24 s).toInt = s := by
  simp only [stepsOk, Bool.and_eq_true, decide_eq_true_eq] at h
  rw [BitVec.toInt_ofInt]
  exact Int.bmod_eq_of_le (by omega) (by omega)

end Sys2Proof
end

