-- ==== Sys2Proof/Laws/State.lean ====
section
/-! SUPPORT. What every update of the state leaves in every field: one lemma per field per update, true by rfl. -/

namespace Sys2Proof.Machine

variable (s : State)


/-! ### `State.drive`: set(line := v) (rule R101) -/

@[simp] theorem State.drive_cfg (l : Line) (v : Bool) : (s.drive l v).cfg = s.cfg := rfl
@[simp] theorem State.drive_lines (l : Line) (v : Bool) : (s.drive l v).lines = s.lines.set l v := rfl
@[simp] theorem State.drive_pstate (l : Line) (v : Bool) : (s.drive l v).pstate = s.pstate := rfl
@[simp] theorem State.drive_overrun (l : Line) (v : Bool) : (s.drive l v).overrun = s.overrun := rfl
@[simp] theorem State.drive_result (l : Line) (v : Bool) : (s.drive l v).result = s.result := rfl
@[simp] theorem State.drive_stepcount (l : Line) (v : Bool) : (s.drive l v).stepcount = s.stepcount := rfl
@[simp] theorem State.drive_mask0 (l : Line) (v : Bool) : (s.drive l v).mask0 = s.mask0 := rfl
@[simp] theorem State.drive_mask1 (l : Line) (v : Bool) : (s.drive l v).mask1 = s.mask1 := rfl
@[simp] theorem State.drive_mask2 (l : Line) (v : Bool) : (s.drive l v).mask2 = s.mask2 := rfl
@[simp] theorem State.drive_mask3 (l : Line) (v : Bool) : (s.drive l v).mask3 = s.mask3 := rfl
@[simp] theorem State.drive_upc (l : Line) (v : Bool) : (s.drive l v).upc = s.upc := rfl
@[simp] theorem State.drive_waitcnt (l : Line) (v : Bool) : (s.drive l v).waitcnt = s.waitcnt := rfl
@[simp] theorem State.drive_shiftBuf (l : Line) (v : Bool) : (s.drive l v).shiftBuf = s.shiftBuf := rfl
@[simp] theorem State.drive_cmdLatch (l : Line) (v : Bool) : (s.drive l v).cmdLatch = s.cmdLatch := rfl
@[simp] theorem State.drive_acc (l : Line) (v : Bool) : (s.drive l v).acc = s.acc := rfl
@[simp] theorem State.drive_inputs (l : Line) (v : Bool) : (s.drive l v).inputs = s.inputs := rfl
@[simp] theorem State.drive_cycle (l : Line) (v : Bool) : (s.drive l v).cycle = s.cycle := rfl
@[simp] theorem State.drive_readData (l : Line) (v : Bool) : (s.drive l v).readData = s.readData := rfl

/-! ### `State.goto`: the control flow after a micro-op (rule R106) -/

@[simp] theorem State.goto_cfg (u : Upc) (n : Nat) : (s.goto u n).cfg = s.cfg := rfl
@[simp] theorem State.goto_lines (u : Upc) (n : Nat) : (s.goto u n).lines = s.lines := rfl
@[simp] theorem State.goto_pstate (u : Upc) (n : Nat) : (s.goto u n).pstate = s.pstate := rfl
@[simp] theorem State.goto_overrun (u : Upc) (n : Nat) : (s.goto u n).overrun = s.overrun := rfl
@[simp] theorem State.goto_result (u : Upc) (n : Nat) : (s.goto u n).result = s.result := rfl
@[simp] theorem State.goto_stepcount (u : Upc) (n : Nat) : (s.goto u n).stepcount = s.stepcount := rfl
@[simp] theorem State.goto_mask0 (u : Upc) (n : Nat) : (s.goto u n).mask0 = s.mask0 := rfl
@[simp] theorem State.goto_mask1 (u : Upc) (n : Nat) : (s.goto u n).mask1 = s.mask1 := rfl
@[simp] theorem State.goto_mask2 (u : Upc) (n : Nat) : (s.goto u n).mask2 = s.mask2 := rfl
@[simp] theorem State.goto_mask3 (u : Upc) (n : Nat) : (s.goto u n).mask3 = s.mask3 := rfl
@[simp] theorem State.goto_upc (u : Upc) (n : Nat) : (s.goto u n).upc = u := rfl
@[simp] theorem State.goto_waitcnt (u : Upc) (n : Nat) : (s.goto u n).waitcnt = n := rfl
@[simp] theorem State.goto_shiftBuf (u : Upc) (n : Nat) : (s.goto u n).shiftBuf = s.shiftBuf := rfl
@[simp] theorem State.goto_cmdLatch (u : Upc) (n : Nat) : (s.goto u n).cmdLatch = s.cmdLatch := rfl
@[simp] theorem State.goto_acc (u : Upc) (n : Nat) : (s.goto u n).acc = s.acc := rfl
@[simp] theorem State.goto_inputs (u : Upc) (n : Nat) : (s.goto u n).inputs = s.inputs := rfl
@[simp] theorem State.goto_cycle (u : Upc) (n : Nat) : (s.goto u n).cycle = s.cycle := rfl
@[simp] theorem State.goto_readData (u : Upc) (n : Nat) : (s.goto u n).readData = s.readData := rfl

/-! ### `State.waitCycle`: one cycle of a wait (rule R102) -/

@[simp] theorem State.waitCycle_cfg : (s.waitCycle).cfg = s.cfg := rfl
@[simp] theorem State.waitCycle_lines : (s.waitCycle).lines = s.lines := rfl
@[simp] theorem State.waitCycle_pstate : (s.waitCycle).pstate = s.pstate := rfl
@[simp] theorem State.waitCycle_overrun : (s.waitCycle).overrun = s.overrun := rfl
@[simp] theorem State.waitCycle_result : (s.waitCycle).result = s.result := rfl
@[simp] theorem State.waitCycle_stepcount : (s.waitCycle).stepcount = s.stepcount := rfl
@[simp] theorem State.waitCycle_mask0 : (s.waitCycle).mask0 = s.mask0 := rfl
@[simp] theorem State.waitCycle_mask1 : (s.waitCycle).mask1 = s.mask1 := rfl
@[simp] theorem State.waitCycle_mask2 : (s.waitCycle).mask2 = s.mask2 := rfl
@[simp] theorem State.waitCycle_mask3 : (s.waitCycle).mask3 = s.mask3 := rfl
@[simp] theorem State.waitCycle_upc : (s.waitCycle).upc = s.upc := rfl
@[simp] theorem State.waitCycle_waitcnt : (s.waitCycle).waitcnt = s.waitcnt - 1 := rfl
@[simp] theorem State.waitCycle_shiftBuf : (s.waitCycle).shiftBuf = s.shiftBuf := rfl
@[simp] theorem State.waitCycle_cmdLatch : (s.waitCycle).cmdLatch = s.cmdLatch := rfl
@[simp] theorem State.waitCycle_acc : (s.waitCycle).acc = s.acc := rfl
@[simp] theorem State.waitCycle_inputs : (s.waitCycle).inputs = s.inputs := rfl
@[simp] theorem State.waitCycle_cycle : (s.waitCycle).cycle = s.cycle := rfl
@[simp] theorem State.waitCycle_readData : (s.waitCycle).readData = s.readData := rfl

/-! ### `State.complete`: done(fields) (rule R105) -/

@[simp] theorem State.complete_cfg (f : DoneFields) (p : PState) : (s.complete f p).cfg = s.cfg := rfl
@[simp] theorem State.complete_lines (f : DoneFields) (p : PState) : (s.complete f p).lines = s.lines := rfl
@[simp] theorem State.complete_pstate (f : DoneFields) (p : PState) : (s.complete f p).pstate = p := rfl
@[simp] theorem State.complete_overrun (f : DoneFields) (p : PState) : (s.complete f p).overrun = s.overrun := rfl
@[simp] theorem State.complete_result (f : DoneFields) (p : PState) : (s.complete f p).result = doneResult (opcField s.cmdLatch) f := rfl
@[simp] theorem State.complete_stepcount (f : DoneFields) (p : PState) : (s.complete f p).stepcount = s.stepcount := rfl
@[simp] theorem State.complete_mask0 (f : DoneFields) (p : PState) : (s.complete f p).mask0 = s.mask0 := rfl
@[simp] theorem State.complete_mask1 (f : DoneFields) (p : PState) : (s.complete f p).mask1 = s.mask1 := rfl
@[simp] theorem State.complete_mask2 (f : DoneFields) (p : PState) : (s.complete f p).mask2 = s.mask2 := rfl
@[simp] theorem State.complete_mask3 (f : DoneFields) (p : PState) : (s.complete f p).mask3 = s.mask3 := rfl
@[simp] theorem State.complete_upc (f : DoneFields) (p : PState) : (s.complete f p).upc = .idle := rfl
@[simp] theorem State.complete_waitcnt (f : DoneFields) (p : PState) : (s.complete f p).waitcnt = 0 := rfl
@[simp] theorem State.complete_shiftBuf (f : DoneFields) (p : PState) : (s.complete f p).shiftBuf = s.shiftBuf := rfl
@[simp] theorem State.complete_cmdLatch (f : DoneFields) (p : PState) : (s.complete f p).cmdLatch = s.cmdLatch := rfl
@[simp] theorem State.complete_acc (f : DoneFields) (p : PState) : (s.complete f p).acc = s.acc := rfl
@[simp] theorem State.complete_inputs (f : DoneFields) (p : PState) : (s.complete f p).inputs = s.inputs := rfl
@[simp] theorem State.complete_cycle (f : DoneFields) (p : PState) : (s.complete f p).cycle = s.cycle := rfl
@[simp] theorem State.complete_readData (f : DoneFields) (p : PState) : (s.complete f p).readData = s.readData := rfl

/-! ### `State.completeMotor`: done(fields) of a motor routine (rule R105) -/

@[simp] theorem State.completeMotor_cfg (f : DoneFields) : (s.completeMotor f).cfg = s.cfg := rfl
@[simp] theorem State.completeMotor_lines (f : DoneFields) : (s.completeMotor f).lines = s.lines := rfl
@[simp] theorem State.completeMotor_pstate (f : DoneFields) : (s.completeMotor f).pstate = s.pstate := rfl
@[simp] theorem State.completeMotor_overrun (f : DoneFields) : (s.completeMotor f).overrun = s.overrun := rfl
@[simp] theorem State.completeMotor_result (f : DoneFields) : (s.completeMotor f).result = doneResult (opcField s.cmdLatch) f := rfl
@[simp] theorem State.completeMotor_stepcount (f : DoneFields) : (s.completeMotor f).stepcount = BitVec.ofNat 32 s.acc.pulses := rfl
@[simp] theorem State.completeMotor_mask0 (f : DoneFields) : (s.completeMotor f).mask0 = s.mask0 := rfl
@[simp] theorem State.completeMotor_mask1 (f : DoneFields) : (s.completeMotor f).mask1 = s.mask1 := rfl
@[simp] theorem State.completeMotor_mask2 (f : DoneFields) : (s.completeMotor f).mask2 = s.mask2 := rfl
@[simp] theorem State.completeMotor_mask3 (f : DoneFields) : (s.completeMotor f).mask3 = s.mask3 := rfl
@[simp] theorem State.completeMotor_upc (f : DoneFields) : (s.completeMotor f).upc = .idle := rfl
@[simp] theorem State.completeMotor_waitcnt (f : DoneFields) : (s.completeMotor f).waitcnt = 0 := rfl
@[simp] theorem State.completeMotor_shiftBuf (f : DoneFields) : (s.completeMotor f).shiftBuf = s.shiftBuf := rfl
@[simp] theorem State.completeMotor_cmdLatch (f : DoneFields) : (s.completeMotor f).cmdLatch = s.cmdLatch := rfl
@[simp] theorem State.completeMotor_acc (f : DoneFields) : (s.completeMotor f).acc = s.acc := rfl
@[simp] theorem State.completeMotor_inputs (f : DoneFields) : (s.completeMotor f).inputs = s.inputs := rfl
@[simp] theorem State.completeMotor_cycle (f : DoneFields) : (s.completeMotor f).cycle = s.cycle := rfl
@[simp] theorem State.completeMotor_readData (f : DoneFields) : (s.completeMotor f).readData = s.readData := rfl

/-! ### `State.overrunWrite`: a CMD write while busy (rule R109) -/

@[simp] theorem State.overrunWrite_cfg : (s.overrunWrite).cfg = s.cfg := rfl
@[simp] theorem State.overrunWrite_lines : (s.overrunWrite).lines = s.lines := rfl
@[simp] theorem State.overrunWrite_pstate : (s.overrunWrite).pstate = s.pstate := rfl
@[simp] theorem State.overrunWrite_overrun : (s.overrunWrite).overrun = true := rfl
@[simp] theorem State.overrunWrite_result : (s.overrunWrite).result = s.result := rfl
@[simp] theorem State.overrunWrite_stepcount : (s.overrunWrite).stepcount = s.stepcount := rfl
@[simp] theorem State.overrunWrite_mask0 : (s.overrunWrite).mask0 = s.mask0 := rfl
@[simp] theorem State.overrunWrite_mask1 : (s.overrunWrite).mask1 = s.mask1 := rfl
@[simp] theorem State.overrunWrite_mask2 : (s.overrunWrite).mask2 = s.mask2 := rfl
@[simp] theorem State.overrunWrite_mask3 : (s.overrunWrite).mask3 = s.mask3 := rfl
@[simp] theorem State.overrunWrite_upc : (s.overrunWrite).upc = s.upc := rfl
@[simp] theorem State.overrunWrite_waitcnt : (s.overrunWrite).waitcnt = s.waitcnt := rfl
@[simp] theorem State.overrunWrite_shiftBuf : (s.overrunWrite).shiftBuf = s.shiftBuf := rfl
@[simp] theorem State.overrunWrite_cmdLatch : (s.overrunWrite).cmdLatch = s.cmdLatch := rfl
@[simp] theorem State.overrunWrite_acc : (s.overrunWrite).acc = s.acc := rfl
@[simp] theorem State.overrunWrite_inputs : (s.overrunWrite).inputs = s.inputs := rfl
@[simp] theorem State.overrunWrite_cycle : (s.overrunWrite).cycle = s.cycle := rfl
@[simp] theorem State.overrunWrite_readData : (s.overrunWrite).readData = s.readData := rfl

/-! ### `State.rejectWith`: the rejection of a command (rule R221) -/

@[simp] theorem State.rejectWith_cfg (w : Word) (r : Reject) : (s.rejectWith w r).cfg = s.cfg := rfl
@[simp] theorem State.rejectWith_lines (w : Word) (r : Reject) : (s.rejectWith w r).lines = s.lines := rfl
@[simp] theorem State.rejectWith_pstate (w : Word) (r : Reject) : (s.rejectWith w r).pstate = s.pstate := rfl
@[simp] theorem State.rejectWith_overrun (w : Word) (r : Reject) : (s.rejectWith w r).overrun = s.overrun := rfl
@[simp] theorem State.rejectWith_result (w : Word) (r : Reject) : (s.rejectWith w r).result = rejectResult w r := rfl
@[simp] theorem State.rejectWith_stepcount (w : Word) (r : Reject) : (s.rejectWith w r).stepcount = s.stepcount := rfl
@[simp] theorem State.rejectWith_mask0 (w : Word) (r : Reject) : (s.rejectWith w r).mask0 = s.mask0 := rfl
@[simp] theorem State.rejectWith_mask1 (w : Word) (r : Reject) : (s.rejectWith w r).mask1 = s.mask1 := rfl
@[simp] theorem State.rejectWith_mask2 (w : Word) (r : Reject) : (s.rejectWith w r).mask2 = s.mask2 := rfl
@[simp] theorem State.rejectWith_mask3 (w : Word) (r : Reject) : (s.rejectWith w r).mask3 = s.mask3 := rfl
@[simp] theorem State.rejectWith_upc (w : Word) (r : Reject) : (s.rejectWith w r).upc = s.upc := rfl
@[simp] theorem State.rejectWith_waitcnt (w : Word) (r : Reject) : (s.rejectWith w r).waitcnt = s.waitcnt := rfl
@[simp] theorem State.rejectWith_shiftBuf (w : Word) (r : Reject) : (s.rejectWith w r).shiftBuf = s.shiftBuf := rfl
@[simp] theorem State.rejectWith_cmdLatch (w : Word) (r : Reject) : (s.rejectWith w r).cmdLatch = s.cmdLatch := rfl
@[simp] theorem State.rejectWith_acc (w : Word) (r : Reject) : (s.rejectWith w r).acc = s.acc := rfl
@[simp] theorem State.rejectWith_inputs (w : Word) (r : Reject) : (s.rejectWith w r).inputs = s.inputs := rfl
@[simp] theorem State.rejectWith_cycle (w : Word) (r : Reject) : (s.rejectWith w r).cycle = s.cycle := rfl
@[simp] theorem State.rejectWith_readData (w : Word) (r : Reject) : (s.rejectWith w r).readData = s.readData := rfl

/-! ### `State.accept`: the acceptance of a command (rule R107) -/

@[simp] theorem State.accept_cfg (w : Word) (u : Upc) (n : Nat) (a : Acc) : (s.accept w u n a).cfg = s.cfg := rfl
@[simp] theorem State.accept_lines (w : Word) (u : Upc) (n : Nat) (a : Acc) : (s.accept w u n a).lines = s.lines := rfl
@[simp] theorem State.accept_pstate (w : Word) (u : Upc) (n : Nat) (a : Acc) : (s.accept w u n a).pstate = s.pstate := rfl
@[simp] theorem State.accept_overrun (w : Word) (u : Upc) (n : Nat) (a : Acc) : (s.accept w u n a).overrun = s.overrun := rfl
@[simp] theorem State.accept_result (w : Word) (u : Upc) (n : Nat) (a : Acc) : (s.accept w u n a).result = s.result := rfl
@[simp] theorem State.accept_stepcount (w : Word) (u : Upc) (n : Nat) (a : Acc) : (s.accept w u n a).stepcount = s.stepcount := rfl
@[simp] theorem State.accept_mask0 (w : Word) (u : Upc) (n : Nat) (a : Acc) : (s.accept w u n a).mask0 = s.mask0 := rfl
@[simp] theorem State.accept_mask1 (w : Word) (u : Upc) (n : Nat) (a : Acc) : (s.accept w u n a).mask1 = s.mask1 := rfl
@[simp] theorem State.accept_mask2 (w : Word) (u : Upc) (n : Nat) (a : Acc) : (s.accept w u n a).mask2 = s.mask2 := rfl
@[simp] theorem State.accept_mask3 (w : Word) (u : Upc) (n : Nat) (a : Acc) : (s.accept w u n a).mask3 = s.mask3 := rfl
@[simp] theorem State.accept_upc (w : Word) (u : Upc) (n : Nat) (a : Acc) : (s.accept w u n a).upc = u := rfl
@[simp] theorem State.accept_waitcnt (w : Word) (u : Upc) (n : Nat) (a : Acc) : (s.accept w u n a).waitcnt = n := rfl
@[simp] theorem State.accept_shiftBuf (w : Word) (u : Upc) (n : Nat) (a : Acc) : (s.accept w u n a).shiftBuf = s.shiftBuf := rfl
@[simp] theorem State.accept_cmdLatch (w : Word) (u : Upc) (n : Nat) (a : Acc) : (s.accept w u n a).cmdLatch = w := rfl
@[simp] theorem State.accept_acc (w : Word) (u : Upc) (n : Nat) (a : Acc) : (s.accept w u n a).acc = a := rfl
@[simp] theorem State.accept_inputs (w : Word) (u : Upc) (n : Nat) (a : Acc) : (s.accept w u n a).inputs = s.inputs := rfl
@[simp] theorem State.accept_cycle (w : Word) (u : Upc) (n : Nat) (a : Acc) : (s.accept w u n a).cycle = s.cycle := rfl
@[simp] theorem State.accept_readData (w : Word) (u : Upc) (n : Nat) (a : Acc) : (s.accept w u n a).readData = s.readData := rfl

/-! ### `State.endCycle`: the end of a cycle (rule R66) -/

@[simp] theorem State.endCycle_cfg (t : State) : (s.endCycle t).cfg = t.cfg := rfl
@[simp] theorem State.endCycle_lines (t : State) : (s.endCycle t).lines = t.lines := rfl
@[simp] theorem State.endCycle_pstate (t : State) : (s.endCycle t).pstate = t.pstate := rfl
@[simp] theorem State.endCycle_overrun (t : State) : (s.endCycle t).overrun = t.overrun := rfl
@[simp] theorem State.endCycle_result (t : State) : (s.endCycle t).result = t.result := rfl
@[simp] theorem State.endCycle_stepcount (t : State) : (s.endCycle t).stepcount = t.stepcount := rfl
@[simp] theorem State.endCycle_mask0 (t : State) : (s.endCycle t).mask0 = t.mask0 := rfl
@[simp] theorem State.endCycle_mask1 (t : State) : (s.endCycle t).mask1 = t.mask1 := rfl
@[simp] theorem State.endCycle_mask2 (t : State) : (s.endCycle t).mask2 = t.mask2 := rfl
@[simp] theorem State.endCycle_mask3 (t : State) : (s.endCycle t).mask3 = t.mask3 := rfl
@[simp] theorem State.endCycle_upc (t : State) : (s.endCycle t).upc = t.upc := rfl
@[simp] theorem State.endCycle_waitcnt (t : State) : (s.endCycle t).waitcnt = t.waitcnt := rfl
@[simp] theorem State.endCycle_shiftBuf (t : State) : (s.endCycle t).shiftBuf = t.shiftBuf := rfl
@[simp] theorem State.endCycle_cmdLatch (t : State) : (s.endCycle t).cmdLatch = t.cmdLatch := rfl
@[simp] theorem State.endCycle_acc (t : State) : (s.endCycle t).acc = t.acc := rfl
@[simp] theorem State.endCycle_inputs (t : State) : (s.endCycle t).inputs = s.inputs.tail := rfl
@[simp] theorem State.endCycle_cycle (t : State) : (s.endCycle t).cycle = s.cycle + 1 := rfl
@[simp] theorem State.endCycle_readData (t : State) : (s.endCycle t).readData = s.hostReadData := rfl

/-! ### `State.resetWith`: the reset state (rule R251) -/

@[simp] theorem State.resetWith_cfg (c : Config) : (State.resetWith c).cfg = c := rfl
@[simp] theorem State.resetWith_lines (c : Config) : (State.resetWith c).lines = Lines.reset := rfl
@[simp] theorem State.resetWith_pstate (c : Config) : (State.resetWith c).pstate = .off := rfl
@[simp] theorem State.resetWith_overrun (c : Config) : (State.resetWith c).overrun = false := rfl
@[simp] theorem State.resetWith_result (c : Config) : (State.resetWith c).result = 0 := rfl
@[simp] theorem State.resetWith_stepcount (c : Config) : (State.resetWith c).stepcount = 0 := rfl
@[simp] theorem State.resetWith_mask0 (c : Config) : (State.resetWith c).mask0 = 0 := rfl
@[simp] theorem State.resetWith_mask1 (c : Config) : (State.resetWith c).mask1 = 0 := rfl
@[simp] theorem State.resetWith_mask2 (c : Config) : (State.resetWith c).mask2 = 0 := rfl
@[simp] theorem State.resetWith_mask3 (c : Config) : (State.resetWith c).mask3 = 0 := rfl
@[simp] theorem State.resetWith_upc (c : Config) : (State.resetWith c).upc = .idle := rfl
@[simp] theorem State.resetWith_waitcnt (c : Config) : (State.resetWith c).waitcnt = 0 := rfl
@[simp] theorem State.resetWith_shiftBuf (c : Config) : (State.resetWith c).shiftBuf = 0 := rfl
@[simp] theorem State.resetWith_cmdLatch (c : Config) : (State.resetWith c).cmdLatch = 0 := rfl
@[simp] theorem State.resetWith_acc (c : Config) : (State.resetWith c).acc = Acc.zero := rfl
@[simp] theorem State.resetWith_inputs (c : Config) : (State.resetWith c).inputs = [] := rfl
@[simp] theorem State.resetWith_cycle (c : Config) : (State.resetWith c).cycle = 0 := rfl
@[simp] theorem State.resetWith_readData (c : Config) : (State.resetWith c).readData = none := rfl

/-! ### `Lines.set`: one line written, the others unchanged (rule R101) -/

/-- The line written holds the new level, every other line what it held. -/
theorem Lines.get_set (l : Lines) (x y : Line) (v : Bool) :
    (l.set x v).get y = if y = x then v else l.get y := by
  cases x <;> cases y <;> rfl

/-- Writing the level a line already has changes nothing: it is no transition (rule R101). -/
theorem Lines.set_get (l : Lines) (x : Line) : l.set x (l.get x) = l := by
  cases x <;> rfl

/-- Two line states that agree on every line are one (rule R20 names all of them). -/
theorem Lines.ext_get {l m : Lines} (h : ∀ x, l.get x = m.get x) : l = m := by
  obtain ⟨_, _, _, _, _, _, _, _, _, _, _⟩ := l
  obtain ⟨_, _, _, _, _, _, _, _, _, _, _⟩ := m
  have h0 := h .sclk; have h1 := h .sdata; have h2 := h .csAN; have h3 := h .csBN; have h4 := h .fireN
  have h5 := h .rail1En; have h6 := h .rail2En; have h7 := h .headReset; have h8 := h .motorEn
  have h9 := h .motorDir; have h10 := h .motorStep
  simp only [Lines.get] at h0 h1 h2 h3 h4 h5 h6 h7 h8 h9 h10
  subst h0 h1 h2 h3 h4 h5 h6 h7 h8 h9 h10
  rfl

/-! ### BUSY (rules R39, R43) -/

/-- BUSY = 0 exactly when the sequencer has no position. -/
theorem State.busy_eq_false : s.busy = false ↔ s.upc = .idle := by
  unfold State.busy State.routine
  cases s.upc <;> simp [Upc.routine]

/-- BUSY = 1 exactly when the sequencer has a position. -/
theorem State.busy_eq_true : s.busy = true ↔ s.upc ≠ .idle := by
  rw [ne_eq, ← State.busy_eq_false]
  simp

/-- BUSY depends on the position only. -/
theorem State.busy_congr {t : State} (h : s.upc = t.upc) : s.busy = t.busy := by
  simp only [State.busy, State.routine, h]

end Sys2Proof.Machine
end

