-- ==== Sys2Proof/Laws/Step.lean ====
section
/-! SUPPORT. What `exec`, the host's access and a step can do, case by case: one lemma per function, cited instead of unfolding it. -/

namespace Sys2Proof.Machine

/-! ## What `exec` answers -/

/-- A CMD write of a command while busy is an overrun (rule R109). -/
theorem exec_busy {s : State} (i : Instr) (h : s.busy = true) : exec i s = .next s.overrunWrite := by
  cases i <;> simp [exec, execPowerUp, execPowerDown, execFireNone, execFireHigh, execFireLow, execAdvance, execHome,
    State.offerFire, h]

/-- A CMD write of a command always leaves a next state (rule R228). -/
theorem exec_next (i : Instr) (s : State) : ∃ t, exec i s = .next t := by
  cases i <;> exact ⟨_, rfl⟩

/-- What the outcome of an idle CMD write of the command `i` can be: the word is rejected and the command is FIRE, or it is
latched and its routine starts (rule R107). -/
def Offered (i : Instr) (s t : State) : Prop :=
  (t = s.rejectWith (encode i) .notPowered ∧ s.pstate ≠ .ready ∧ commandRoutine i = .fire) ∨
  ∃ p m u n a, t = { s with pstate := p, shiftBuf := m }.accept (encode i) u n a ∧ u.routine = commandRoutine i

theorem offerFire_offered {i : Instr} {s : State} (waits : Bool) (hb : s.busy = false)
    (hi : commandRoutine i = .fire) : Offered i s (s.offerFire (encode i) waits) := by
  unfold State.offerFire
  rw [if_neg (by simp [hb])]
  split
  · exact .inl ⟨rfl, ‹_›, hi⟩
  · exact .inr ⟨s.pstate, s.mask, _, _, _, rfl, hi.symm⟩

/-- A CMD write of a command to an idle block, case by case (rule R107). -/
theorem exec_idle_cases {s t : State} {i : Instr} (hb : s.busy = false) (h : exec i s = .next t) : Offered i s t := by
  have hn : ¬s.busy = true := by simp [hb]
  cases i with
  | powerUp =>
    cases h
    rw [if_neg hn]
    split
    · exact .inr ⟨s.pstate, s.shiftBuf, _, _, _, rfl, rfl⟩
    · exact .inr ⟨.railsEnabling, s.shiftBuf, _, _, _, rfl, rfl⟩
    · exact .inr ⟨s.pstate, s.shiftBuf, _, _, _, rfl, rfl⟩
    · exact .inr ⟨s.pstate, s.shiftBuf, _, _, _, rfl, rfl⟩
  | powerDown =>
    cases h
    rw [if_neg hn]
    split
    · exact .inr ⟨s.pstate, s.shiftBuf, _, _, _, rfl, rfl⟩
    · exact .inr ⟨.resetAsserting, s.shiftBuf, _, _, _, rfl, rfl⟩
    · exact .inr ⟨s.pstate, s.shiftBuf, _, _, _, rfl, rfl⟩
    · exact .inr ⟨s.pstate, s.shiftBuf, _, _, _, rfl, rfl⟩
  | fireNone n => cases h; exact offerFire_offered false hb rfl
  | fireHigh n => cases h; exact offerFire_offered true hb rfl
  | fireLow n => cases h; exact offerFire_offered true hb rfl
  | advance n k =>
    cases h
    rw [if_neg hn]
    split <;> exact .inr ⟨s.pstate, s.shiftBuf, _, _, _, rfl, rfl⟩
  | home k =>
    cases h
    rw [if_neg hn]
    exact .inr ⟨s.pstate, s.shiftBuf, _, _, _, rfl, rfl⟩

/-! ## What the host's access does -/

/-- A CMD write always leaves a next state. -/
theorem cmdWrite_next (w : Word) (s : State) : ∃ t, cmdWrite w s = .next t := by
  unfold cmdWrite
  split
  · exact ⟨_, rfl⟩
  · split
    · exact ⟨_, rfl⟩
    · exact exec_next _ s

/-- The host's access of a cycle always leaves a next state: the access that has no meaning is refused before (rule R62). -/
theorem hostEffect_next (s : State) : ∃ t, hostEffect s = .next t := by
  unfold hostEffect
  split
  · split
    · exact ⟨_, rfl⟩
    · exact cmdWrite_next _ s
    · exact ⟨_, rfl⟩
  · exact ⟨_, rfl⟩

/-- The host's access, case by case: nothing, a CMD write, or a write of another register. -/
theorem hostEffect_cases {s t : State} (h : hostEffect s = .next t) :
    t = s ∨ (∃ w, cmdWrite w s = .next t) ∨ ∃ r v, t = s.writeReg r v := by
  unfold hostEffect at h
  split at h
  · split at h
    · cases h; exact .inl rfl
    · exact .inr (.inl ⟨_, h⟩)
    · cases h; exact .inr (.inr ⟨_, _, rfl⟩)
  · cases h; exact .inl rfl

/-- A CMD write, case by case: an overrun while busy; while idle a rejected word or a command (rules R107, R109). -/
theorem cmdWrite_cases {s t : State} {w : Word} (h : cmdWrite w s = .next t) :
    (s.busy = true ∧ t = s.overrunWrite) ∨
    (s.busy = false ∧ ∃ r, decode w = .error r ∧ t = s.rejectWith w r) ∨
    (s.busy = false ∧ ∃ i, decode w = .ok i ∧ exec i s = .next t) := by
  unfold cmdWrite at h
  split at h
  · cases h; exact .inl ⟨‹_›, rfl⟩
  · have hb : s.busy = false := by simpa using ‹¬s.busy = true›
    split at h
    · cases h; exact .inr (.inl ⟨hb, _, ‹_›, rfl⟩)
    · exact .inr (.inr ⟨hb, _, ‹_›, h⟩)

/-! ## What a step does -/

/-- A step answers a next state exactly when the cycle's access has a meaning (rules R62, R228). -/
theorem step_next_iff (s : State) : (∃ t, step s = .next t) ↔ s.accessOk = true := by
  unfold step clockCycle
  by_cases ha : s.accessOk = true
  · simp only [ha, if_true, iff_true]
    split
    · exact ⟨_, rfl⟩
    · obtain ⟨t, ht⟩ := hostEffect_next s
      exact ⟨_, by unfold activeCycle; rw [ht]⟩
  · simp [ha]

/-- A step, case by case: a reset cycle (rule R250), or the host's access together with the sequencer's cycle (rule R66). -/
theorem step_cases {s t : State} (h : step s = .next t) :
    (s.input.rst = true ∧ t = s.resetCycle) ∨
    (s.input.rst = false ∧ ∃ u, hostEffect s = .next u ∧ t = s.endCycle (if s.busy then seqCycle u else u)) := by
  unfold step clockCycle at h
  split at h
  · split at h
    · cases h; exact .inl ⟨‹_›, rfl⟩
    · refine .inr ⟨by simpa using ‹¬s.input.rst = true›, ?_⟩
      obtain ⟨u, hu⟩ := hostEffect_next s
      refine ⟨u, hu, ?_⟩
      unfold activeCycle at h
      rw [hu] at h
      cases h
      rfl
  · cases h

end Sys2Proof.Machine
end

