-- ==== Sys2Proof/Laws/Run.lean ====
section
/-! SUPPORT. The sequencer's own part of the state, and runs of many cycles: while a routine runs, that part moves by itself,
whatever the host does (spec/20_memory.md rule R66, spec/40_sequencer.md rule R110). -/

namespace Sys2Proof.Machine

/-- What no micro-op touches: the configuration, OVERRUN, the staging mask, the inputs (rules R41, R66(5), R110). -/
def SameRest (s t : State) : Prop :=
  t.cfg = s.cfg ∧ t.overrun = s.overrun ∧ t.mask0 = s.mask0 ∧ t.mask1 = s.mask1 ∧ t.mask2 = s.mask2 ∧
  t.mask3 = s.mask3 ∧ t.inputs = s.inputs ∧ t.cycle = s.cycle ∧ t.readData = s.readData

/-- The sequencer's cycle writes none of what it does not own (rules R41, R66(5)). -/
theorem seqCycle_rest (s : State) : SameRest s (seqCycle s) := by
  have refl : ∀ t : State, t.cfg = s.cfg → t.overrun = s.overrun → t.mask0 = s.mask0 → t.mask1 = s.mask1 →
      t.mask2 = s.mask2 → t.mask3 = s.mask3 → t.inputs = s.inputs → t.cycle = s.cycle → t.readData = s.readData →
      SameRest s t := fun _ a b c d e f g h i => ⟨a, b, c, d, e, f, g, h, i⟩
  unfold seqCycle
  split
  · apply refl <;> rfl
  · unfold microOp
    split
    · apply refl <;> rfl
    · unfold powerUpOp; split <;> apply refl <;> rfl
    · unfold powerDownOp; split <;> apply refl <;> rfl
    · unfold fireOp
      split
      · unfold readySampleOp; split
        · apply refl <;> rfl
        · split <;> apply refl <;> rfl
      · apply refl <;> rfl
      · apply refl <;> rfl
      · apply refl <;> rfl
      · unfold clockHighOp; split <;> apply refl <;> rfl
      · unfold selectHighOp; split <;> apply refl <;> rfl
      all_goals (apply refl <;> rfl)
    · unfold advanceOp
      split
      · apply refl <;> rfl
      · apply refl <;> rfl
      · apply refl <;> rfl
      · unfold advanceStepLowOp; split <;> apply refl <;> rfl
      all_goals (apply refl <;> rfl)
    · unfold homeOp
      split
      · apply refl <;> rfl
      · apply refl <;> rfl
      · apply refl <;> rfl
      · apply refl <;> rfl
      · unfold homeSampleOp; split
        · apply refl <;> rfl
        · split <;> apply refl <;> rfl
      all_goals (apply refl <;> rfl)

theorem seqCycle_cfg (s : State) : (seqCycle s).cfg = s.cfg := (seqCycle_rest s).1

/-! ## The sequencer's own part of the state -/

/-- The part of the state the sequencer reads and writes. The host's accesses write none of it while a routine runs (rule R66(4)). -/
structure SeqView where
  cfg : Config
  lines : Lines
  pstate : PState
  result : Word
  stepcount : Word
  upc : Upc
  waitcnt : Nat
  shiftBuf : Mask
  cmdLatch : Word
  acc : Acc
deriving DecidableEq, Repr

/-- The sequencer's part of a state. -/
def State.view (s : State) : SeqView :=
  ⟨s.cfg, s.lines, s.pstate, s.result, s.stepcount, s.upc, s.waitcnt, s.shiftBuf, s.cmdLatch, s.acc⟩

/-- A state with this sequencer's part and these input levels; what else it holds is of no account. -/
def SeqView.withPins (v : SeqView) (p : Pins) : State where
  cfg := v.cfg
  lines := v.lines
  pstate := v.pstate
  overrun := false
  result := v.result
  stepcount := v.stepcount
  mask0 := 0
  mask1 := 0
  mask2 := 0
  mask3 := 0
  upc := v.upc
  waitcnt := v.waitcnt
  shiftBuf := v.shiftBuf
  cmdLatch := v.cmdLatch
  acc := v.acc
  inputs := [⟨false, .quiet, p⟩]
  cycle := 0
  readData := none

/-- One cycle of the sequencer, on its own part of the state. -/
def SeqView.next (p : Pins) (v : SeqView) : SeqView := (seqCycle (v.withPins p)).view

/-- `n` cycles of the sequencer, `p j` being the input levels of the `j`-th. -/
def SeqView.run (p : Nat → Pins) : Nat → SeqView → SeqView
  | 0, v => v
  | n + 1, v => SeqView.run (fun j => p (j + 1)) n (v.next (p 0))

/-- What is gathered along `n` cycles of the sequencer. -/
def SeqView.gather {α : Type} (f : Lines → Lines → List α) (p : Nat → Pins) : Nat → SeqView → List α
  | 0, _ => []
  | n + 1, v => f v.lines (v.next (p 0)).lines ++ SeqView.gather f (fun j => p (j + 1)) n (v.next (p 0))

/-- The sequencer's cycle depends on the sequencer's part of the state and the input levels only. -/
theorem view_seqCycle (s : State) : (seqCycle s).view = s.view.next s.pins := by
  unfold SeqView.next
  have hw : (s.view.withPins s.pins).waitcnt = s.waitcnt := rfl
  unfold seqCycle
  rw [hw]
  split
  · rfl
  · unfold microOp
    have hu : (s.view.withPins s.pins).upc = s.upc := rfl
    rw [hu]
    split
    · rfl
    · unfold powerUpOp; split <;> rfl
    · unfold powerDownOp; split <;> rfl
    · unfold fireOp
      split
      · unfold readySampleOp
        have h1 : (s.view.withPins s.pins).pins = s.pins := rfl
        have h2 : (s.view.withPins s.pins).latchWant = s.latchWant := rfl
        have h3 : (s.view.withPins s.pins).latchTimeout = s.latchTimeout := rfl
        rw [h1, h2, h3]
        split
        · rfl
        · split <;> rfl
      · rfl
      · rfl
      · rfl
      · unfold clockHighOp; split <;> rfl
      · unfold selectHighOp; split <;> rfl
      · rfl
      · rfl
      · rfl
      · rfl
    · unfold advanceOp
      split
      · rfl
      · rfl
      · rfl
      · unfold advanceStepLowOp
        have h3 : (s.view.withPins s.pins).latchCount = s.latchCount := rfl
        rw [h3]
        split <;> rfl
      · rfl
      · rfl
    · unfold homeOp
      split
      · rfl
      · rfl
      · rfl
      · rfl
      · unfold homeSampleOp
        have h1 : (s.view.withPins s.pins).pins = s.pins := rfl
        have h2 : (s.view.withPins s.pins).cfg = s.cfg := rfl
        rw [h1, h2]
        split
        · rfl
        · split <;> rfl
      · rfl
      · rfl

theorem view_endCycle (s t : State) : (s.endCycle t).view = t.view := rfl

/-- While a routine runs, the host's access touches nothing of the sequencer's part (rule R66(4), (5)), nor the cycle's inputs. -/
theorem hostEffect_busy {s t : State} (hb : s.busy = true) (h : hostEffect s = .next t) :
    t.view = s.view ∧ t.inputs = s.inputs ∧ t.cycle = s.cycle := by
  obtain rfl | ⟨w, hw⟩ | ⟨r, v, rfl⟩ := hostEffect_cases h
  · exact ⟨rfl, rfl, rfl⟩
  · obtain ⟨_, rfl⟩ | ⟨h0, _⟩ | ⟨h0, _⟩ := cmdWrite_cases hw
    · exact ⟨rfl, rfl, rfl⟩
    · rw [hb] at h0; cases h0
    · rw [hb] at h0; cases h0
  · unfold State.writeReg
    split
    · split <;> exact ⟨rfl, rfl, rfl⟩
    all_goals exact ⟨rfl, rfl, rfl⟩

theorem inputAt_zero (s : State) : s.inputAt 0 = s.input := by
  unfold State.inputAt State.input
  cases s.inputs <;> rfl

theorem inputAt_endCycle (s t : State) (j : Nat) : (s.endCycle t).inputAt j = s.inputAt (j + 1) := by
  unfold State.inputAt
  simp only [State.endCycle_inputs, State.endCycle_cycle]
  rw [List.drop_tail]
  cases s.inputs.drop (j + 1) with
  | nil => simp only; congr 2; omega
  | cons => rfl

/-- An access the run allows is one the step accepts (rules R60, R62). -/
theorem accessOk_of_inputRuns {s : State} (h : inputRuns s.cfg s.input = true) :
    s.accessOk = true ∧ s.input.rst = false := by
  unfold inputRuns at h
  rw [Bool.and_eq_true] at h
  refine ⟨?_, by simpa using h.1⟩
  have h2 := h.2
  unfold State.accessOk State.accessReg
  split at h2
  · rename_i he; rw [he]
  · rename_i he; rw [he]
    revert h2; simp only [HostAccess.sizeOk]
    cases regAt s.cfg _ <;> simp
  · rename_i he; rw [he]
    revert h2; simp only [HostAccess.sizeOk]
    cases regAt s.cfg _ <;> simp

/-- A cycle of a running routine that nothing stops: the sequencer's part moves by one sequencer cycle, whatever the host does
(rules R66, R110). -/
theorem step_busy {s : State} (hb : s.busy = true) (hi : inputRuns s.cfg s.input = true) :
    ∃ t, step s = .next t ∧ t.view = s.view.next s.pins ∧ t.inputs = s.inputs.tail ∧ t.cycle = s.cycle + 1 := by
  obtain ⟨ha, hr⟩ := accessOk_of_inputRuns hi
  obtain ⟨t, ht⟩ := (step_next_iff s).2 ha
  obtain ⟨h1, _⟩ | ⟨_, u, hu, rfl⟩ := step_cases ht
  · rw [hr] at h1; cases h1
  · obtain ⟨hv, hin, _⟩ := hostEffect_busy hb hu
    refine ⟨_, ht, ?_, rfl, rfl⟩
    rw [view_endCycle, if_pos hb, view_seqCycle, hv]
    congr 1
    unfold State.pins State.input
    rw [hin]
    rename_i hc
    rw [hc]

/-- The sequencer stays where it is when it has no position. -/
theorem SeqView.next_idle {v : SeqView} (p : Pins) (h : v.upc = .idle) : (v.next p).upc = .idle := by
  unfold SeqView.next seqCycle
  split
  · exact h
  · have hu : (v.withPins p).upc = .idle := h
    unfold microOp
    rw [hu]
    exact h

theorem SeqView.run_idle {n : Nat} : ∀ {v : SeqView} {p : Nat → Pins}, v.upc = .idle → (v.run p n).upc = .idle := by
  induction n with
  | zero => intro v p h; exact h
  | succ n ih => intro v p h; exact ih (SeqView.next_idle _ h)

theorem SeqView.run_add {m : Nat} : ∀ {n : Nat} {v : SeqView} {p : Nat → Pins},
    v.run p (m + n) = (v.run p m).run (fun j => p (m + j)) n := by
  induction m with
  | zero => intro n v p; simp [SeqView.run]
  | succ m ih =>
    intro n v p
    rw [show m + 1 + n = (m + n) + 1 by omega]
    simp only [SeqView.run]
    rw [ih]
    congr 1
    funext j
    congr 1
    omega

theorem SeqView.gather_add {α : Type} {f : Lines → Lines → List α} {m : Nat} :
    ∀ {n : Nat} {v : SeqView} {p : Nat → Pins},
    v.gather f p (m + n) = v.gather f p m ++ (v.run p m).gather f (fun j => p (m + j)) n := by
  induction m with
  | zero => intro n v p; simp [SeqView.gather, SeqView.run]
  | succ m ih =>
    intro n v p
    rw [show m + 1 + n = (m + n) + 1 by omega]
    simp only [SeqView.gather, SeqView.run]
    rw [ih, List.append_assoc]
    congr 3
    funext j
    congr 1
    omega

/-- The input levels of the coming cycles. -/
def State.pinsAt (s : State) (j : Nat) : Pins := (s.inputAt j).pins

/-- A run through cycles in which the routine runs on and nothing stops it: the state and everything gathered from the lines are
the sequencer's own, whatever the host does (rules R66, R110). -/
theorem runCycles_busy {α : Type} (f : Lines → Lines → List α) {n : Nat} : ∀ {s : State}, s.RunsFor n →
    (∀ j < n, (s.view.run s.pinsAt j).upc ≠ .idle) →
    ∃ u, runCycles n s = .next u ∧ u.view = s.view.run s.pinsAt n ∧ (∀ j, u.inputAt j = s.inputAt (n + j)) ∧
      gather (fun a b => f a.lines b.lines) n s = s.view.gather f s.pinsAt n := by
  induction n with
  | zero => intro s _ _; exact ⟨s, rfl, rfl, by simp, rfl⟩
  | succ n ih =>
    intro s hr hb
    have hb0 : s.busy = true := (State.busy_eq_true s).2 (hb 0 (by omega))
    have hi : inputRuns s.cfg s.input = true := by rw [← inputAt_zero]; exact hr 0 (by omega)
    obtain ⟨t, ht, hv, hin, hcy⟩ := step_busy hb0 hi
    have hat : ∀ j, t.inputAt j = s.inputAt (j + 1) := by
      intro j
      rw [← inputAt_endCycle s s j]
      simp only [State.inputAt, hin, hcy, State.endCycle_inputs, State.endCycle_cycle]
    have hcfg : t.cfg = s.cfg := by
      have : t.view.cfg = s.cfg := by
        rw [hv, ← view_seqCycle]
        exact seqCycle_cfg s
      exact this
    have hp : (fun j => s.pinsAt (j + 1)) = t.pinsAt := by
      funext j; simp only [State.pinsAt, hat]
    have hp0 : s.pins = s.pinsAt 0 := by simp only [State.pinsAt, inputAt_zero, State.pins]
    obtain ⟨u, hu, huv, hua, hug⟩ := ih (s := t) (by
        intro j hj; rw [hat, hcfg]; exact hr (j + 1) (by omega)) (by
        intro j hj
        have := hb (j + 1) (by omega)
        simp only [SeqView.run] at this
        rw [hp, ← hp0, ← hv] at this
        exact this)
    refine ⟨u, by simp only [runCycles, ht, hu], ?_, ?_, ?_⟩
    · rw [huv, hv]; simp only [SeqView.run]; rw [hp, hp0]
    · intro j; rw [hua, hat]; congr 1; omega
    · simp only [Machine.gather, ht, hug, SeqView.gather]
      rw [← hp0, hp, ← hv]
      rfl

/-- With nothing listed, RST is low and the host makes no access in any coming cycle (log 2): such a state runs on. -/
theorem runsFor_of_inputs_nil {s : State} (h : s.inputs = []) (n : Nat) : s.RunsFor n := by
  intro j _
  unfold State.inputAt
  rw [h, List.drop_nil]
  rfl

end Sys2Proof.Machine
end

