-- ==== Sys2Proof/Laws/Frame.lean ====
section
/-! SUPPORT. The frame of the sequencer's cycle, a step case by case in terms of the sequencer's own part, and the induction that
makes an invariant of it: one lemma per shared operation, cited instead of unfolding the micro-ops. -/

namespace Sys2Proof.Machine

/-! ## The sequencer's cycle -/

/-- A line the running routine does not write keeps its level ("Lines written" of rules R147, R172, R180, R193, R203). -/
theorem seqCycle_lines (s : State) : ∀ l, l ∉ routineLines s.routine → (seqCycle s).lines.get l = s.lines.get l := by
  intro l hl
  unfold seqCycle
  split
  · rfl
  · unfold microOp
    unfold State.routine at hl
    cases hu : s.upc with
    | idle => rfl
    | powerUp p =>
      rw [hu] at hl
      cases p <;> cases l <;> first | rfl | (exfalso; apply hl; simp [Upc.routine, routineLines])
    | powerDown p =>
      rw [hu] at hl
      cases p <;> cases l <;> first | rfl | (exfalso; apply hl; simp [Upc.routine, routineLines])
    | fire p =>
      rw [hu] at hl
      cases p <;> simp only [fireOp, readySampleOp, selectLowOp, clockLowOp, setDataOp, clockHighOp, selectHighOp,
        readBackOp, fireDoneOp] <;> (repeat' split) <;> (try (rename Channel => ch; cases ch)) <;> cases l <;>
        first | rfl | (exfalso; apply hl; simp [Upc.routine, routineLines])
    | advance p =>
      rw [hu] at hl
      cases p <;> simp only [advanceOp, advanceStepLowOp] <;> (repeat' split) <;> cases l <;>
        first | rfl | (exfalso; apply hl; simp [Upc.routine, routineLines])
    | home p =>
      rw [hu] at hl
      cases p <;> simp only [homeOp, homeSampleOp] <;> (repeat' split) <;> cases l <;>
        first | rfl | (exfalso; apply hl; simp [Upc.routine, routineLines])

/-- The sequencer writes neither CMD_LATCH nor SHIFT_BUF, and STEPCOUNT only at a motor routine's `done` (rules R35, R41, R42). -/
theorem seqCycle_latch (s : State) :
    (seqCycle s).cmdLatch = s.cmdLatch ∧ (seqCycle s).shiftBuf = s.shiftBuf ∧
    ((seqCycle s).stepcount ≠ s.stepcount → s.AtOp (.advance .finish) ∨ s.AtOp (.home .finish)) := by
  unfold seqCycle
  split
  · exact ⟨rfl, rfl, fun h => absurd rfl h⟩
  · rename_i hw
    have hw : s.waitcnt = 0 := by omega
    unfold microOp State.AtOp
    cases hu : s.upc with
    | idle => exact ⟨rfl, rfl, fun h => absurd rfl h⟩
    | powerUp p => cases p <;> exact ⟨rfl, rfl, fun h => absurd rfl h⟩
    | powerDown p => cases p <;> exact ⟨rfl, rfl, fun h => absurd rfl h⟩
    | fire p =>
      cases p <;> simp only [fireOp, readySampleOp, selectLowOp, clockLowOp, setDataOp, clockHighOp, selectHighOp,
        readBackOp, fireDoneOp] <;> (repeat' split) <;> exact ⟨rfl, rfl, fun h => absurd rfl h⟩
    | advance p =>
      cases p <;> simp only [advanceOp, advanceStepLowOp] <;> (repeat' split) <;>
        first | exact ⟨rfl, rfl, fun h => absurd rfl h⟩ | exact ⟨rfl, rfl, fun _ => .inl ⟨trivial, hw⟩⟩
    | home p =>
      cases p <;> simp only [homeOp, homeSampleOp] <;> (repeat' split) <;>
        first | exact ⟨rfl, rfl, fun h => absurd rfl h⟩ | exact ⟨rfl, rfl, fun _ => .inr ⟨trivial, hw⟩⟩

/-- The sequencer writes RESULT only at a `done`, which ends the routine (rules R33, R105). -/
theorem seqCycle_result (s : State) :
    (seqCycle s).result = s.result ∨
    (∃ f, (seqCycle s).result = doneResult (opcField s.cmdLatch) f) ∧ s.waitcnt = 0 ∧ (seqCycle s).upc = .idle ∧
      s.upc ≠ .idle := by
  unfold seqCycle
  split
  · exact .inl rfl
  · rename_i hw
    have hw : s.waitcnt = 0 := by omega
    unfold microOp
    cases hu : s.upc with
    | idle => exact .inl rfl
    | powerUp p =>
      cases p <;> first | exact .inl rfl | exact .inr ⟨⟨_, rfl⟩, hw, rfl, nofun⟩
    | powerDown p =>
      cases p <;> first | exact .inl rfl | exact .inr ⟨⟨_, rfl⟩, hw, rfl, nofun⟩
    | fire p =>
      cases p <;> simp only [fireOp, readySampleOp, selectLowOp, clockLowOp, setDataOp, clockHighOp, selectHighOp,
        readBackOp, fireDoneOp] <;> (repeat' split) <;>
        first | exact .inl rfl | exact .inr ⟨⟨_, rfl⟩, hw, rfl, nofun⟩
    | advance p =>
      cases p <;> simp only [advanceOp, advanceStepLowOp] <;> (repeat' split) <;>
        first | exact .inl rfl | exact .inr ⟨⟨_, rfl⟩, hw, rfl, nofun⟩
    | home p =>
      cases p <;> simp only [homeOp, homeSampleOp] <;> (repeat' split) <;>
        first | exact .inl rfl | exact .inr ⟨⟨_, rfl⟩, hw, rfl, nofun⟩

/-- The sequencer's cycle stays in its routine, or ends it at its `done` (rules R105, R110). -/
theorem seqCycle_routine (s : State) :
    (seqCycle s).routine = s.routine ∨
    (seqCycle s).busy = false ∧ (s.AtOp (.powerUp .finish) ∨ s.AtOp (.powerDown .finish) ∨ s.AtOp (.fire .finish) ∨
      s.AtOp (.advance .finish) ∨ s.AtOp (.home .finish)) := by
  unfold seqCycle
  split
  · exact .inl rfl
  · rename_i hw
    have hw : s.waitcnt = 0 := by omega
    unfold microOp State.AtOp State.routine
    cases hu : s.upc with
    | idle => exact .inl (congrArg Upc.routine hu)
    | powerUp p => cases p <;> first | exact .inl rfl | exact .inr ⟨rfl, .inl ⟨rfl, hw⟩⟩
    | powerDown p => cases p <;> first | exact .inl rfl | exact .inr ⟨rfl, .inr (.inl ⟨rfl, hw⟩)⟩
    | fire p =>
      cases p <;> simp only [fireOp, readySampleOp, selectLowOp, clockLowOp, setDataOp, clockHighOp, selectHighOp,
        readBackOp, fireDoneOp] <;> (repeat' split) <;>
        first | exact .inl rfl | exact .inr ⟨rfl, .inr (.inr (.inl ⟨trivial, hw⟩))⟩
    | advance p =>
      cases p <;> simp only [advanceOp, advanceStepLowOp] <;> (repeat' split) <;>
        first | exact .inl rfl | exact .inr ⟨rfl, .inr (.inr (.inr (.inl ⟨trivial, hw⟩)))⟩
    | home p =>
      cases p <;> simp only [homeOp, homeSampleOp] <;> (repeat' split) <;>
        first | exact .inl rfl | exact .inr ⟨rfl, .inr (.inr (.inr (.inr ⟨trivial, hw⟩)))⟩

/-- Two states with the same sequencer's part and the same levels differ after a cycle only in what the sequencer does not own
(rule R66(4), (5)). -/
theorem seqCycle_congr {s u : State} (hv : u.view = s.view) (hp : u.pins = s.pins) :
    seqCycle u =
      { seqCycle s with
        overrun := u.overrun
        mask0 := u.mask0
        mask1 := u.mask1
        mask2 := u.mask2
        mask3 := u.mask3
        inputs := u.inputs
        cycle := u.cycle
        readData := u.readData } := by
  have h : (seqCycle u).view = (seqCycle s).view := by rw [view_seqCycle, view_seqCycle, hp, hv]
  obtain ⟨_, r2, r3, r4, r5, r6, r7, r8, r9⟩ := seqCycle_rest u
  simp only [State.view, SeqView.mk.injEq] at h
  obtain ⟨c1, c2, c3, c4, c5, c6, c7, c8, c9, c10⟩ := h
  generalize seqCycle u = x at *
  generalize seqCycle s = y at *
  clear hv hp
  cases x
  cases y
  simp_all

/-! ## A step -/

/-- The host's access of a cycle whose access has a meaning, case by case: no write, a CMD write, a write of another register. -/
theorem hostEffect_ok_cases {s t : State} (ha : s.accessOk = true) (hr : s.input.rst = false)
    (h : hostEffect s = .next t) :
    (t = s ∧ ∀ addr v, s.input.host = .write addr 4 v → regAt s.cfg addr = none) ∨
    (∃ w, s.Offers w ∧ cmdWrite w s = .next t) ∨
    ∃ addr r v, r ≠ .cmd ∧ s.input.host = .write addr 4 v ∧ regAt s.cfg addr = some r ∧ t = s.writeReg r v := by
  have size : ∀ {addr size : Nat} {v : Word} {r : Reg}, s.input.host = .write addr size v →
      regAt s.cfg addr = some r → size = 4 := by
    intro addr size v r hh hg
    unfold State.accessOk State.accessReg at ha
    rw [hh] at ha
    simpa [hg, HostAccess.sizeOk] using ha
  unfold hostEffect at h
  split at h
  · rename_i addr sz v hh
    split at h
    · cases h
      refine .inl ⟨rfl, ?_⟩
      intro a v' he
      have := hh.symm.trans he
      cases this
      assumption
    · rename_i hg
      have := size hh hg
      subst this
      exact .inr (.inl ⟨v, ⟨hr, addr, hh, hg⟩, h⟩)
    · rename_i r hne hg
      have := size hh hg
      subst this
      cases h
      exact .inr (.inr ⟨addr, r, v, hne, hh, hg, rfl⟩)
  · cases h
    refine .inl ⟨rfl, ?_⟩
    intro a v he
    rename_i hx
    exact absurd he (hx _ _ _)

/-- The host's write of a register other than CMD touches nothing of the sequencer's part (rule R66(4)). -/
theorem view_writeReg (s : State) (r : Reg) (v : Word) : (s.writeReg r v).view = s.view := by
  unfold State.writeReg
  cases r <;> simp only <;> first | rfl | (split <;> rfl)

/-- What a step makes of the sequencer's part: RST's reset value; one sequencer cycle while a routine runs, whatever the host does;
while idle nothing, a rejection's RESULT, or a command's acceptance (rules R66, R107, R250). -/
theorem step_view_cases {s t : State} (h : step s = .next t) :
    (s.input.rst = true ∧ t = s.resetCycle) ∨
    (s.input.rst = false ∧ s.busy = true ∧ t.view = (seqCycle s).view) ∨
    (s.input.rst = false ∧ s.busy = false ∧
      (t.view = s.view ∨
        ∃ w, s.Offers w ∧
          ((∃ r, decode w = .error r ∧ t.view = (s.rejectWith w r).view) ∨
            ∃ i u, decode w = .ok i ∧ exec i s = .next u ∧ t.view = u.view))) := by
  have ha := (step_next_iff s).1 ⟨t, h⟩
  obtain ⟨h1, h2⟩ | ⟨hr, u, hu, rfl⟩ := step_cases h
  · exact .inl ⟨h1, h2⟩
  · refine .inr ?_
    by_cases hb : s.busy = true
    · refine .inl ⟨hr, hb, ?_⟩
      obtain ⟨e1, e2, e3⟩ := hostEffect_busy hb hu
      rw [if_pos hb, view_endCycle, view_seqCycle, view_seqCycle, e1]
      congr 1
      unfold State.pins State.input
      rw [e2]
      split
      · simp only [e3]
      · rfl
    · rw [if_neg hb]
      have hb : s.busy = false := by simpa using hb
      refine .inr ⟨hr, hb, ?_⟩
      rw [view_endCycle]
      obtain ⟨rfl, _⟩ | ⟨w, ho, hw⟩ | ⟨_, r, v, _, _, _, rfl⟩ := hostEffect_ok_cases ha hr hu
      · exact .inl rfl
      · refine .inr ⟨w, ho, ?_⟩
        obtain ⟨hb', _⟩ | ⟨_, r, hd, rfl⟩ | ⟨_, i, hd, he⟩ := cmdWrite_cases hw
        · rw [hb] at hb'; cases hb'
        · exact .inl ⟨r, hd, rfl⟩
        · exact .inr ⟨i, u, hd, he, rfl⟩
      · exact .inl (view_writeReg s r v)

/-- An invariant of the sequencer's part is kept by every step if the reset state meets it and it is kept by the sequencer's cycle,
by a rejection and by an acceptance. -/
theorem step_keeps {Inv : State → Prop} (hview : ∀ s t : State, s.view = t.view → Inv s → Inv t)
    (hreset : ∀ c, Inv (State.resetWith c)) (hseq : ∀ s : State, s.busy = true → Inv s → Inv (seqCycle s))
    (hreject : ∀ s w r, s.busy = false → Inv s → Inv (s.rejectWith w r))
    (hexec : ∀ s w i t, s.busy = false → decode w = .ok i → Inv s → exec i s = .next t → Inv t)
    {s t : State} (hi : Inv s) (h : step s = .next t) : Inv t := by
  obtain ⟨_, rfl⟩ | ⟨_, hb, hv⟩ | ⟨_, hb, hv | ⟨w, _, ⟨r, _, hv⟩ | ⟨i, u, hd, he, hv⟩⟩⟩ := step_view_cases h
  · exact hview (State.resetWith s.cfg) _ rfl (hreset s.cfg)
  · exact hview _ _ hv.symm (hseq s hb hi)
  · exact hview _ _ hv.symm hi
  · exact hview _ _ hv.symm (hreject s w r hb hi)
  · exact hview _ _ hv.symm (hexec s w i u hb hd hi he)

/-! ## Waits in a run (rule R102) -/

/-- One cycle of a running wait, on the sequencer's part. -/
theorem SeqView.next_wait {v : SeqView} {n : Nat} (p : Pins) (h : v.waitcnt = n + 1) :
    v.next p = { v with waitcnt := n } := by
  unfold SeqView.next seqCycle
  have hw : (v.withPins p).waitcnt = n + 1 := h
  rw [if_pos (by omega)]
  unfold State.waitCycle State.view
  simp only [hw]
  rfl

/-- A wait of `n` cycles leaves everything but WAITCNT (rule R102). -/
theorem SeqView.run_wait {n : Nat} : ∀ {v : SeqView} {p : Nat → Pins}, v.waitcnt = n →
    v.run p n = { v with waitcnt := 0 } := by
  induction n with
  | zero => intro v p h; cases v; cases h; rfl
  | succ n ih =>
    intro v p h
    simp only [SeqView.run]
    rw [SeqView.next_wait _ h, ih rfl]

/-- Over a wait of `n` cycles the lines stand still, so each cycle gathers the same (rules R102, R103). -/
theorem SeqView.gather_wait {α : Type} {f : Lines → Lines → List α} {n : Nat} :
    ∀ {v : SeqView} {p : Nat → Pins}, v.waitcnt = n →
    v.gather f p n = (List.replicate n (f v.lines v.lines)).flatten := by
  induction n with
  | zero => intro v p _; rfl
  | succ n ih =>
    intro v p h
    simp only [SeqView.gather]
    rw [SeqView.next_wait _ h, ih rfl]
    rfl

end Sys2Proof.Machine
end

