-- ==== Sys2Proof/Laws/PerInstr.lean ====
section
/-! SUPPORT. Facts about a command as syntax, one lemma per constructor: the opcode its word carries (spec/30_encoding.md rules
R80 and R86). -/

namespace Sys2Proof.Laws

/-- The opcode of a command (rule R86). -/
def opcodeOf : Instr → BitVec 4
  | .powerUp => 1
  | .powerDown => 2
  | .fireNone _ => 3
  | .fireHigh _ => 3
  | .fireLow _ => 3
  | .advance _ _ => 4
  | .home _ => 5

/-- The word of a command carries its opcode in bits [3:0] (rule R80, rule R86). -/
def Opcode.Statement (i : Instr) : Prop := opcField (encode i) = opcodeOf i

theorem Opcode.powerUp : Opcode.Statement .powerUp := opcField_layoutP 1

theorem Opcode.powerDown : Opcode.Statement .powerDown := opcField_layoutP 2

theorem Opcode.fireNone (timeout : Nat) : Opcode.Statement (.fireNone timeout) := opcField_layoutF _ _

theorem Opcode.fireHigh (timeout : Nat) : Opcode.Statement (.fireHigh timeout) := opcField_layoutF _ _

theorem Opcode.fireLow (timeout : Nat) : Opcode.Statement (.fireLow timeout) := opcField_layoutF _ _

theorem Opcode.advance (steps : Int) (keep : Bool) : Opcode.Statement (.advance steps keep) :=
  opcField_layoutM _ _

theorem Opcode.home (keep : Bool) : Opcode.Statement (.home keep) := opcField_layoutH _

end Sys2Proof.Laws
end

