-- ==== Sys2Proof/Tests/Slice0.lean ====
section
/-! SUPPORT. Tests with expected values from spec/95_test_vectors.md and the rules' worked examples, and a witness for every
statement that has hypotheses: a concrete state and operands that meet all of them. -/

namespace Sys2Proof.Tests

open Sys2Proof.Machine

/-! ## Helpers -/

/-- What a next state shows. -/
def after (o : Host.Outcome State Fault Refusal) (f : State → Bool) : Bool :=
  match o with
  | .next t => f t
  | .fault _ => false
  | .refused _ => false

/-- One cycle's input: RST low, no levels asserted, this host access. -/
def hostCycle (h : HostAccess) : CycleInput := ⟨false, h, ⟨false, false, false⟩⟩

/-- The state with the host making this access in the coming cycle. -/
def withAccess (h : HostAccess) (s : State) : State := { s with inputs := [hostCycle h] }

/-- The state with these input levels in the coming cycle. -/
def withPins (p : Pins) (s : State) : State := { s with inputs := [⟨false, .quiet, p⟩] }

/-- The host writing this word to CMD at TC's BASE. -/
def cmdAccess (w : Word) : HostAccess := .write 0x40000000 4 w

/-- The lines of a powered head (rule R177). -/
def poweredLines : Lines := { Lines.reset with rail1En := true, rail2En := true, headReset := false }

/-- Idle in PSTATE READY, the head powered. -/
def readyState : State := { State.reset with pstate := .ready, lines := poweredLines }

/-- A running FIRE at a position, in READY. -/
def firing (p : FirePc) : State := { readyState with upc := .fire p, cmdLatch := 0x00030013 }

/-- A running motor routine at a position. -/
def running (u : Upc) (w : Word) : State := { State.reset with upc := u, cmdLatch := w }

theorem access_offers (w : Word) : (withAccess (cmdAccess w) State.reset).Offers w :=
  ⟨rfl, 0x40000000, rfl, by show regAt Config.tc 0x40000000 = _; decide⟩

theorem access_offers_ready (w : Word) : (withAccess (cmdAccess w) readyState).Offers w :=
  ⟨rfl, 0x40000000, rfl, by show regAt Config.tc 0x40000000 = _; decide⟩

theorem access_offers_firing (p : FirePc) (w : Word) : (withAccess (cmdAccess w) (firing p)).Offers w :=
  ⟨rfl, 0x40000000, rfl, by show regAt Config.tc 0x40000000 = _; decide⟩

theorem step_of_accessOk {s : State} (h : s.accessOk = true) : ∃ t, step s = .next t := (step_next_iff s).2 h

/-! ## Configurations (rule R9) -/

theorem test_config_accepts_tc : Config.ofParams? Config.tc.toParams = some Config.tc := by decide

theorem test_config_refuses_no_clock : Config.ofParams? { Config.tc.toParams with tClkNs := 0 } = none := by decide

theorem test_config_refuses_short_minimum : Config.ofParams? { Config.tc.toParams with fireMinNs := 999 } = none := by
  decide

theorem test_config_refuses_short_strobe : Config.ofParams? { Config.tc.toParams with tFw := 8 } = none := by decide

theorem test_config_refuses_no_budget : Config.ofParams? { Config.tc.toParams with homeMaxSteps := 0 } = none := by
  decide

theorem test_config_refuses_large_budget :
    Config.ofParams? { Config.tc.toParams with homeMaxSteps := 2 ^ 24 + 1 } = none := by decide

theorem test_config_refuses_base : Config.ofParams? { Config.tc.toParams with base := 0x40000020 } = none := by decide

theorem test_config_refuses_long_delay : Config.ofParams? { Config.tc.toParams with tPu1 := 2 ^ 32 } = none := by decide

/-! ## WellFormed smoke: ill-formed terms are refused (rule R90) -/

theorem test_wf_refuses_fireNone : Instr.wf (.fireNone 65536) = false := by decide

theorem test_wf_refuses_fireHigh : Instr.wf (.fireHigh 65536) = false := by decide

theorem test_wf_refuses_fireLow : Instr.wf (.fireLow 65536) = false := by decide

theorem test_wf_refuses_advance_above : Instr.wf (.advance 8388608 false) = false := by decide

theorem test_wf_refuses_advance_below : Instr.wf (.advance (-8388609) true) = false := by decide

theorem test_wf_accepts_bounds :
    [Instr.powerUp, .powerDown, .fireNone 65535, .fireHigh 0, .fireLow 65535, .advance 8388607 true,
      .advance (-8388608) false, .home true].all Instr.wf = true := by decide

/-- `FIRE high, 65536` and `ADVANCE 8388608` are assembly errors (V2.1). -/
theorem test_assembly_errors :
    assemble Config.tc (.fireHigh 65536) = none ∧ assemble Config.tc (.advance 8388608 false) = none := by decide

/-! ## Decoding: words written out from the layouts of rules R81 to R84 (V2.1) -/

/-- Layout P: 28 zeros, OPC 0001 (E5). -/
theorem test_decode_powerUp : decode 0b00000000000000000000000000000001#32 = .ok .powerUp := by decide

/-- Layout P: 28 zeros, OPC 0010 (E8). -/
theorem test_decode_powerDown : decode 0b00000000000000000000000000000010#32 = .ok .powerDown := by decide

/-- Layout F: TIMEOUT 5, ten zeros, WAIT_MODE 00, OPC 0011 (E15). -/
theorem test_decode_fireNone : decode 0b00000000000001010000000000000011#32 = .ok (.fireNone 5) := by decide

/-- Layout F: TIMEOUT 3, ten zeros, WAIT_MODE 01, OPC 0011 (E16). -/
theorem test_decode_fireHigh : decode 0b00000000000000110000000000010011#32 = .ok (.fireHigh 3) := by decide

/-- Layout F: TIMEOUT 65535, ten zeros, WAIT_MODE 10, OPC 0011 (E17). -/
theorem test_decode_fireLow : decode 0b11111111111111110000000000100011#32 = .ok (.fireLow 65535) := by decide

/-- Layout M: STEPS 0xFFFA88 = -1400, three zeros, KEEP 0, OPC 0100. -/
theorem test_decode_advance_back : decode 0b11111111111110101000100000000100#32 = .ok (.advance (-1400) false) := by
  decide

/-- Layout M: STEPS 0x000578 = 1400, three zeros, KEEP 1, OPC 0100. -/
theorem test_decode_advance_keep : decode 0b00000000000001010111100000010100#32 = .ok (.advance 1400 true) := by decide

/-- Layout H: 27 zeros, KEEP 1, OPC 0101 (E27). -/
theorem test_decode_home_keep : decode 0b00000000000000000000000000010101#32 = .ok (.home true) := by decide

/-- The rejected words of V2.1: E1 to E4. -/
theorem test_decode_illegal :
    ([0x00000000, 0x00000006, 0x0000000F, 0xFFFFFFF0] : List Word).all
      (fun w => decode w == .error .illegalOpcode) = true := by decide

/-- The rejected words of V2.1: E6, E7, E9, E12 to E14, E18, E19, E28, E29. -/
theorem test_decode_reserved :
    ([0x00000011, 0x80000001, 0xFFFFFFF2, 0x00000033, 0x00000043, 0x00008013, 0x00000024, 0x00000084, 0x00000025,
      0x00000105] : List Word).all (fun w => decode w == .error .reservedField) = true := by decide

/-- The assembled words of V2.1. -/
theorem test_encode_words :
    encode (.fireHigh 3) = 0x00030013 ∧ encode (.fireLow 2) = 0x00020023 ∧ encode (.advance 1400 true) = 0x00057814 ∧
    encode (.advance (-1400) false) = 0xFFFA8804 ∧ encode (.home true) = 0x00000015 := by decide

/-- 0x00050003 prints `FIRE none ; timeout=5 ignored`, 0x00000043 prints `.word` (V2.1). -/
theorem test_disassemble :
    disassemble 0x00050003 = .fireNoneIgnored 5 ∧ disassemble 0x00000043 = .word 0x00000043 .reservedField := by decide

/-- `load_mask` puts mask byte 0 in MASK0[7:0] (rule R92). -/
theorem test_load_mask :
    assemble Config.tc (.loadMask [0x11, 0x22, 0x33, 0x44, 0x55, 0x66, 0x77, 0x88, 0x99, 0xAA, 0xBB, 0xCC, 0xDD, 0xEE,
      0xFF, 0x01]) =
      some [.access (.write 0x40000010 4 0x44332211), .access (.write 0x40000014 4 0x88776655),
        .access (.write 0x40000018 4 0xCCBBAA99), .access (.write 0x4000001C 4 0x01FFEEDD)] := by decide

/-! ## The host's accesses (V2.2) -/

/-- A1 to A6, at reset. -/
theorem test_reset_reads :
    State.reset.readReg .cmd = 0 ∧ State.reset.readReg .result = 0 ∧ State.reset.readReg .stepcount = 0 ∧
    State.reset.readReg .mask3 = 0 ∧ State.reset.readReg .lines = 0x0000009D ∧ State.reset.readReg .unmapped = 0 := by
  decide

/-- A7: a MASK0 write replaces the register. -/
theorem test_mask_write :
    after (step (withAccess (.write 0x40000010 4 0x12345678) State.reset)) (fun t => t.mask0 == 0x12345678) = true := by
  decide

/-- A8: offset[1:0] is not decoded. -/
theorem test_mask_read_misaligned :
    after (step (withAccess (.read 0x40000013 4) { State.reset with mask0 := 0x12345678 }))
      (fun t => t.readData == some 0x12345678) = true := by decide

/-- A10: writes to RESULT are ignored. -/
theorem test_result_write_ignored :
    after (step (withAccess (.write 0x40000008 4 0xFFFFFFFF) State.reset)) (fun t => t.result == 0) = true := by decide

/-- A STATUS read: PSTATE READY, OVERRUN, READY_IN and ENDSTOP_IN (rule R31). -/
theorem test_status_read :
    after (step { readyState with overrun := true, inputs := [⟨false, .read 0x40000004 4, ⟨true, false, true⟩⟩] })
      (fun t => t.readData == some 0x0000005A) = true := by decide

/-- Rule R62: a 2-byte access is refused. -/
theorem test_narrow_refused : step (withAccess (.read 0x40000004 2) State.reset) = .refused .accessSize := rfl

/-- The examples of rule R36, on MASK0[7], MASK0[0], MASK0[15], MASK1[24], MASK2[7], MASK3[24]. -/
theorem test_nozzles :
    nozzleBit { State.reset with mask0 := 0x00000080 }.mask 0 = true ∧
    nozzleBit { State.reset with mask0 := 0x00000001 }.mask 7 = true ∧
    nozzleBit { State.reset with mask0 := 0x00008000 }.mask 8 = true ∧
    nozzleBit { State.reset with mask1 := 0x01000000 }.mask 63 = true ∧
    nozzleBit { State.reset with mask2 := 0x00000080 }.mask 64 = true ∧
    nozzleBit { State.reset with mask3 := 0x01000000 }.mask 127 = true := by decide

/-! ## One step of each command -/

/-- Acceptance of POWER_UP in OFF: the transient PSTATE, T_PU1 = 5 cycles of wait (rule R172). -/
theorem test_powerUp_accepted :
    after (step (withAccess (cmdAccess 0x00000001) State.reset))
      (fun t => t.busy && t.pstate == .railsEnabling && t.waitcnt == 5 && t.lines == Lines.reset) = true := by decide

/-- Both rails rise in one cycle (rule R173). -/
theorem test_powerUp_rails :
    after (step { running (.powerUp .setRails) 1 with pstate := .railsEnabling })
      (fun t => t.lines.rail1En && t.lines.rail2En && t.lines.headReset && t.waitcnt == 5) = true := by decide

/-- POWER_DOWN in READY: its first micro-op asserts the reset (rule R180). -/
theorem test_powerDown_reset :
    after (step { running (.powerDown .assertReset) 2 with pstate := .resetAsserting, lines := poweredLines })
      (fun t => t.lines.headReset && t.lines.rail1En && t.waitcnt == 2) = true := by decide

/-- The `done` of the no-op in OFF: RESULT = 0x00002020 (V2.5, rule R183). -/
theorem test_powerDown_noop :
    after (step { running (.powerDown .finish) 2 with acc := { Acc.zero with noop := true } })
      (fun t => t.result == 0x00002020 && t.pstate == .off && !t.busy) = true := by decide

/-- FIRE in OFF is rejected: RESULT = 0x00000033 (E11). -/
theorem test_fireNone_rejected :
    after (step (withAccess (cmdAccess 0x00000003) State.reset)) (fun t => t.result == 0x00000033 && !t.busy) = true := by
  decide

/-- The first bit out is nozzle 0, MASK0[7] (rule R159). -/
theorem test_fireNone_first_bit :
    after (step { firing (.setData .a 0) with shiftBuf := 0x80 }) (fun t => t.lines.sdata) = true := by decide

/-- A sample at the awaited level ends the ready-wait (rule R148). -/
theorem test_fireHigh_sample :
    after (step (withPins ⟨true, false, false⟩ (firing (.sampleReady 1))))
      (fun t => t.acc.readyOk && t.upc == .fire (.selectLow .a) && t.waitcnt == 0) = true := by decide

/-- The last miss waits T_POLL = 9 too, and the shift follows (rules R148, R149). -/
theorem test_fireHigh_timeout :
    after (step (withPins ⟨false, false, false⟩ (firing (.sampleReady 3))))
      (fun t => !t.acc.readyOk && t.upc == .fire (.selectLow .a) && t.waitcnt == 9) = true := by decide

/-- FIRE low, 65535 is accepted in READY and waits for READY (E17). -/
theorem test_fireLow_accepted :
    after (step (withAccess (cmdAccess 0xFFFF0023) { readyState with mask0 := 0x80 }))
      (fun t => t.upc == .fire (.sampleReady 1) && t.shiftBuf == 0x80 && t.acc.rbValid) = true := by decide

/-- FIRE low waits for READY = 0: a sample of 0 matches (rule R147). -/
theorem test_fireLow_sample :
    after (step (withPins ⟨false, true, false⟩ { firing (.sampleReady 1) with cmdLatch := 0x00020023 }))
      (fun t => t.acc.readyOk) = true := by decide

/-- The last pulse of ADVANCE -3: STEPCOUNT's value is ready and the driver goes off next (rule R193). -/
theorem test_advance_last_pulse :
    after (step { running (.advance (.stepLow 3)) 0xFFFFFD04 with lines := { Lines.reset with motorStep := true } })
      (fun t => t.acc.pulses == 3 && !t.lines.motorStep && t.upc == .advance .disable) = true := by decide

/-- The `done` of ADVANCE 0: STEPCOUNT = 0, RESULT = 0x00002040 (E24). -/
theorem test_advance_zero :
    after (step { running (.advance .finish) 0x00000004 with stepcount := 7, acc := { Acc.zero with noop := true } })
      (fun t => t.stepcount == 0 && t.result == 0x00002040) = true := by decide

/-- A triggered sample ends HOME after pulse 3 (rule R208). -/
theorem test_home_trigger :
    after (step (withPins ⟨false, false, true⟩ (running (.home (.sampleEndstop 3)) 0x00000005)))
      (fun t => t.acc.hit && t.acc.pulses == 3 && t.upc == .home .disable) = true := by decide

/-- The `done` of an exhausted HOME: STEPCOUNT = 10, RESULT = 0x00008050 (rule R208). -/
theorem test_home_exhausted :
    after (step { running (.home .finish) 0x00000005 with acc := { Acc.zero with pulses := 10 } })
      (fun t => t.stepcount == 10 && t.result == 0x00008050 && !t.busy) = true := by decide

/-! ## Witnesses: for each statement with hypotheses, a state and operands that meet them together -/

theorem witness_ResetStateHoldsResetValues :
    (∀ w, ¬(State.resetWith Config.tc).Offers w) ∧ ∃ t, step (State.resetWith Config.tc) = .next t :=
  ⟨fun _ ⟨_, _, h, _⟩ => (by cases h), step_of_accessOk rfl⟩

theorem witness_RstCycleResetsEveryElement :
    let s : State := { firing .strobeHigh with inputs := [⟨true, .read 0x40000004 4, ⟨true, true, true⟩⟩] }
    s.input.rst = true ∧ s.accessOk = true ∧ s.input.host = .read 0x40000004 4 ∧
    regAt s.cfg 0x40000004 = some .status := by decide

theorem witness_OnlyAWrongSizeStopsAStep :
    (withAccess (.read 0x40000000 2) State.reset).input.host = .read 0x40000000 2 ∧
    regAt Config.tc 0x40000000 = some .cmd ∧ (2 : Nat) ≠ 4 ∧
    (withAccess (.write 0x4000003F 8 0) State.reset).input.host = .write 0x4000003F 8 0 ∧
    regAt Config.tc 0x4000003F = some .unmapped ∧ (8 : Nat) ≠ 4 := by decide

theorem witness_AccessOutsideTheWindowDoesNotReachTheBlock :
    (withAccess (.write 0x3FFFFFFF 1 5) State.reset).accessReg (.write 0x3FFFFFFF 1 5) = none ∧
    (withAccess (.write 0x40000040 1 5) State.reset).accessReg (.write 0x40000040 1 5) = none ∧
    regAt Config.tc (0x40000000 + 4 * 15 + 3) = some .unmapped ∧ regAt Config.tc (0x40000000 + 4 * 9) = some .unmapped := by
  decide

theorem witness_StepRunsTheDecodedCommand :
    (withAccess (cmdAccess 1) State.reset).Offers 1 ∧ (withAccess (cmdAccess 1) State.reset).busy = false ∧
    decode 1 = .ok .powerUp ∧ ∃ t, exec .powerUp (withAccess (cmdAccess 1) State.reset) = .next t :=
  ⟨access_offers 1, rfl, by decide, exec_next _ _⟩

theorem witness_WithFetchWordRunsTheWord : Instr.wf (.fireHigh 65535) = true := by decide

theorem witness_DecodingAnEncodedCommandGivesItBack :
    Instr.wf (.advance (-8388608) true) = true ∧ Instr.wf (.advance 8388607 false) = true := by decide

theorem witness_EncodingADecodedWordGivesItBack : decode 0xFFFF0023 = .ok (.fireLow 65535) := by decide

theorem witness_IllegalAndReservedWordsAreRejected :
    opcField 0xFFFFFFF0 = 0 ∧ 6 ≤ opcField 0x00000006 ∧ opcField 0x00000011 = 1 ∧ (0x80000002 : Word).getLsbD 31 = true ∧
    (0x00008003 : Word).getLsbD 15 = true ∧ waitModeField 0x00000033 = 3 ∧ (0x00000084 : Word).getLsbD 7 = true ∧
    (0x00000025 : Word).getLsbD 5 = true := by decide

theorem witness_RowsMatchExactlyTheirWords :
    decode 0x7FFFFF14 = .ok (.advance 8388607 true) ∧ (0xFFFF0003 : Word) &&& 0x0000FFFF = 0x00000003 ∧
    (0x00000013 : Word) &&& 0x0000FFFF = 0x00000013 ∧ (0xFFFF0023 : Word) &&& 0x0000FFFF = 0x00000023 ∧
    (0x80000014 : Word) &&& 0x000000EF = 0x00000004 ∧ (0x00000015 : Word) &&& 0xFFFFFFEF = 0x00000005 ∧
    (0x00000033 : Word) &&& 0x0000FFCF = 0x00000003 ∧ waitModeField 0x00000033 = 3 := by decide

theorem witness_AssemblyAndDisassemblyAgree :
    (Stmt.advance (-8388608) true).command? = some (.advance (-8388608) true) ∧
    Instr.wf (.advance (-8388608) true) = true ∧
    (Stmt.fireLow 65536).command? = some (.fireLow 65536) ∧ Instr.wf (.fireLow 65536) = false := by decide

theorem witness_IdleCommandWriteIsAcceptedOrRejected_rejected :
    (withAccess (cmdAccess 0x33) State.reset).Offers 0x33 ∧ (withAccess (cmdAccess 0x33) State.reset).busy = false ∧
    decode 0x33 = .error .reservedField := ⟨access_offers _, rfl, by decide⟩

theorem witness_IdleCommandWriteIsAcceptedOrRejected_notPowered :
    let s := withAccess (cmdAccess 0x00030013) State.reset
    s.Offers 0x00030013 ∧ s.busy = false ∧ decode 0x00030013 = .ok (.fireHigh 3) ∧
    commandRoutine (.fireHigh 3) = .fire ∧ s.pstate ≠ .ready := ⟨access_offers _, rfl, by decide, rfl, by decide⟩

theorem witness_IdleCommandWriteIsAcceptedOrRejected_accepted :
    let s := withAccess (cmdAccess 0x00030013) readyState
    s.Offers 0x00030013 ∧ s.busy = false ∧ decode 0x00030013 = .ok (.fireHigh 3) ∧
    ¬(commandRoutine (.fireHigh 3) = .fire ∧ s.pstate ≠ .ready) :=
  ⟨access_offers_ready _, rfl, by decide, by decide⟩

theorem witness_RejectionWritesResultOnly :
    let s := withAccess (cmdAccess 0x6) State.reset
    let u := withAccess (cmdAccess 0x3) State.reset
    (s.Offers 0x6 ∧ s.busy = false ∧ (∃ t, step s = .next t) ∧ decode 0x6 = .error .illegalOpcode) ∧
    (u.Offers 0x3 ∧ u.busy = false ∧ (∃ t, step u = .next t) ∧ u.pstate ≠ .ready ∧ decode 0x3 = .ok (.fireNone 0) ∧
      commandRoutine (.fireNone 0) = .fire) :=
  ⟨⟨access_offers _, rfl, step_of_accessOk (by decide), by decide⟩,
    ⟨access_offers _, rfl, step_of_accessOk (by decide), by decide, by decide, rfl⟩⟩

theorem witness_RejectionPriority_busy :
    let s := withAccess (cmdAccess 0) (firing .strobeHigh)
    s.Offers 0 ∧ (∃ t, step s = .next t) ∧ s.busy = true :=
  ⟨access_offers_firing _ _, step_of_accessOk (by decide), rfl⟩

theorem witness_RejectionPriority_idle (w : Word) :
    let s := withAccess (cmdAccess w) State.reset
    s.Offers w ∧ (∃ t, step s = .next t) ∧ s.busy = false ∧ s.pstate = .off :=
  ⟨access_offers w, step_of_accessOk rfl, rfl, rfl⟩

/-- The words of the idle clauses: illegal at both ends, reserved, a reserved FIRE word in OFF (E13), a FIRE word. -/
theorem witness_RejectionPriority_words :
    opcField 0x0 = 0 ∧ 6 ≤ opcField 0xF ∧ decode 0x11 = .error .reservedField ∧ opcField 0x43 = 3 ∧
    (0x43 : Word).extractLsb' 6 10 ≠ 0 ∧ decode 0x3 = .ok (.fireNone 0) ∧ commandRoutine (.fireNone 0) = .fire := by decide

theorem witness_FireIsRejectedUnlessReady :
    State.reset.busy = false ∧ State.reset.pstate ≠ .ready ∧ Instr.wf (.fireLow 65535) = true ∧
    commandRoutine (.fireLow 65535) = .fire ∧ Instr.wf (.home true) = true ∧ commandRoutine (.home true) ≠ .fire := by decide

theorem witness_CommandWriteWhileBusyIsAnOverrun :
    (withAccess (cmdAccess 2) (firing (.setData .b 63))).Offers 2 ∧
    (withAccess (cmdAccess 2) (firing (.setData .b 63))).busy = true := ⟨access_offers_firing _ _, rfl⟩

theorem witness_CommandWriteWhileBusyIsAnOverrun_sticky :
    let s := withAccess (.write 0x40000004 4 8) { State.reset with overrun := true }
    ∃ t, step s = .next t ∧ s.overrun = true ∧ t.overrun = false := ⟨_, rfl, rfl, by decide⟩

theorem witness_PowerUpFromOffCompletes :
    State.reset.busy = false ∧ State.reset.pstate = .off ∧
    ∃ t, exec .powerUp State.reset = .next t ∧ t.RunsFor (powerUpLength Config.tc) :=
  ⟨rfl, rfl, _, rfl, runsFor_of_inputs_nil rfl _⟩

theorem witness_PowerUpInReadyIsANoop :
    readyState.busy = false ∧ readyState.pstate = .ready ∧
    ∃ t, exec .powerUp readyState = .next t ∧ t.RunsFor 1 := ⟨rfl, rfl, _, rfl, runsFor_of_inputs_nil rfl _⟩

theorem witness_PowerDownFromReadyCompletes :
    readyState.busy = false ∧ readyState.pstate = .ready ∧
    ∃ t, exec .powerDown readyState = .next t ∧ t.RunsFor (powerDownLength Config.tc) :=
  ⟨rfl, rfl, _, rfl, runsFor_of_inputs_nil rfl _⟩

theorem witness_PowerDownInOffIsANoop :
    State.reset.busy = false ∧ State.reset.pstate = .off ∧
    ∃ t, exec .powerDown State.reset = .next t ∧ t.RunsFor 1 := ⟨rfl, rfl, _, rfl, runsFor_of_inputs_nil rfl _⟩

/-- Of FireInReadyCompletes, FireShiftsTheMaskOnItsClockEdges and FireLineTiming together. -/
theorem witness_Fire (n : Nat) :
    readyState.busy = false ∧ readyState.pstate = .ready ∧ Instr.wf (.fireHigh 65535) = true ∧
    Instr.wf (.fireLow 0) = true ∧ Instr.wf (.fireNone 65535) = true ∧ commandRoutine (.fireHigh 65535) = .fire ∧
    commandRoutine (.fireLow 0) = .fire ∧ commandRoutine (.fireNone 65535) = .fire ∧ SerialInv readyState ∧
    (∃ t, exec (.fireHigh 65535) readyState = .next t ∧ t.RunsFor n) ∧
    (∃ t, exec (.fireLow 0) readyState = .next t ∧ t.RunsFor n) ∧
    (∃ t, exec (.fireNone 65535) readyState = .next t ∧ t.RunsFor n) :=
  ⟨rfl, rfl, by decide, by decide, by decide, rfl, rfl, rfl, rfl, ⟨_, rfl, runsFor_of_inputs_nil rfl _⟩,
    ⟨_, rfl, runsFor_of_inputs_nil rfl _⟩, ⟨_, rfl, runsFor_of_inputs_nil rfl _⟩⟩

/-- The first match is the last sample of three; and no sample of three matches. -/
theorem witness_ReadyWaitLength :
    ((1 ≤ 3 ∧ 3 ≤ 3) ∧ decide ((3 - 1) * (1 + 9) = 20) = true ∧
      ∀ j, 1 ≤ j → j < 3 → decide ((j - 1) * (1 + 9) = 20) ≠ true) ∧
    (∀ k, 1 ≤ k → k ≤ 3 → (fun _ => false) ((k - 1) * (1 + 9)) ≠ true) := by
  refine ⟨⟨by omega, by decide, ?_⟩, fun _ _ _ h => by cases h⟩
  intro j h1 h2 h
  have := of_decide_eq_true h
  omega

/-- Of AdvanceCompletes and AdvancePulseTrain. -/
theorem witness_Advance (n : Nat) :
    State.reset.busy = false ∧ stepsOk (-8388608) = true ∧ (-8388608 : Int) ≠ 0 ∧
    (∃ t, exec (.advance (-8388608) true) State.reset = .next t ∧ t.RunsFor n) ∧
    stepsOk 8388607 = true ∧ (8388607 : Int) ≠ 0 ∧
    ∃ t, exec (.advance 8388607 false) State.reset = .next t ∧ t.RunsFor n :=
  ⟨rfl, by decide, by decide, ⟨_, rfl, runsFor_of_inputs_nil rfl _⟩, by decide, by decide,
    _, rfl, runsFor_of_inputs_nil rfl _⟩

theorem witness_AdvanceZeroIsANoop :
    State.reset.busy = false ∧ ∃ t, exec (.advance 0 true) State.reset = .next t ∧ t.RunsFor 1 :=
  ⟨rfl, _, rfl, runsFor_of_inputs_nil rfl _⟩

theorem witness_AdvanceForwardAndBackDifferOnlyInDirection (n : Nat) :
    State.reset.busy = false ∧ (8388607 : Int) ≠ 0 ∧ stepsOk 8388607 = true ∧ stepsOk (-8388607) = true ∧
    (∃ t, exec (.advance 8388607 false) State.reset = .next t ∧ t.RunsFor n) ∧
    ∃ t, exec (.advance (-8388607) false) State.reset = .next t :=
  ⟨rfl, by decide, by decide, by decide, ⟨_, rfl, runsFor_of_inputs_nil rfl _⟩, exec_next _ _⟩

/-- Of HomeCompletes and HomePulseTrain. -/
theorem witness_Home (n : Nat) :
    readyState.busy = false ∧ (∃ t, exec (.home true) readyState = .next t ∧ t.RunsFor n) ∧
    ∃ t, exec (.home false) readyState = .next t ∧ t.RunsFor n :=
  ⟨rfl, ⟨_, rfl, runsFor_of_inputs_nil rfl _⟩, _, rfl, runsFor_of_inputs_nil rfl _⟩

/-- Two pulses before the trigger, and a budget of 10 used up without one. -/
theorem witness_HomePulseCount :
    homePulses Config.tc (fun j => j == 9) 0 10 = (2, true) ∧
    homePulses Config.tc (fun _ => false) 0 10 = (10, false) := by decide

theorem witness_EveryRoutineEndsWithinItsBound (n : Nat) (i : Instr) (h : i.wf = true) :
    readyState.busy = false ∧ i.wf = true ∧ (commandRoutine i = .fire → readyState.pstate = .ready) ∧
    (readyState.pstate = .off ∨ readyState.pstate = .ready) ∧ ∃ t, exec i readyState = .next t ∧ t.RunsFor n := by
  refine ⟨rfl, h, fun _ => rfl, .inr rfl, ?_⟩
  obtain ⟨t, ht⟩ := exec_next i readyState
  refine ⟨t, ht, runsFor_of_inputs_nil ?_ _⟩
  obtain ⟨rfl, _⟩ | ⟨_, _, _, _, _, rfl, _⟩ := exec_idle_cases rfl ht <;> rfl

/-- A cycle that changes STEPCOUNT and RESULT, one that changes CMD_LATCH and SHIFT_BUF, one that changes RESULT while idle. -/
theorem witness_CycleFrame :
    (let s : State := { running (.advance .finish) 4 with stepcount := 7 }
     ∃ t, step s = .next t ∧ s.input.rst = false ∧ t.stepcount ≠ s.stepcount ∧ t.result ≠ s.result) ∧
    (let s := withAccess (cmdAccess 0x3) { readyState with mask3 := 1 }
     ∃ t, step s = .next t ∧ s.input.rst = false ∧ t.cmdLatch ≠ s.cmdLatch ∧ t.shiftBuf ≠ s.shiftBuf) ∧
    (let s := withAccess (cmdAccess 0x33) State.reset
     ∃ t, step s = .next t ∧ s.input.rst = false ∧ t.result ≠ s.result) ∧
    Line.rail1En ∉ routineLines .fire :=
  ⟨⟨_, rfl, rfl, by decide, by decide⟩, ⟨_, rfl, rfl, by decide, by decide⟩, ⟨_, rfl, rfl, by decide⟩, by decide⟩

/-- An idle cycle without a CMD write, with an old command in CMD_LATCH; an idle cycle that starts HOME; a running routine that ends,
and one that goes on. -/
theorem witness_CycleFrame_routine :
    (let s : State := { State.reset with cmdLatch := 5 }
     (∃ t, step s = .next t) ∧ s.input.rst = false ∧ s.busy = false ∧ ¬∃ w, s.Offers w) ∧
    (let s := withAccess (cmdAccess 0x5) State.reset
     ∃ t, step s = .next t ∧ s.input.rst = false ∧ s.busy = false ∧ t.busy = true) ∧
    (∃ t, step (running (.home .finish) 5) = .next t ∧ (running (.home .finish) 5).busy = true ∧ t.busy = false) ∧
    ∃ t, step (running (.home .disable) 5) = .next t ∧ t.routine = .home :=
  ⟨⟨⟨_, rfl⟩, rfl, rfl, fun ⟨_, _, _, h, _⟩ => nomatch h⟩, ⟨_, rfl, rfl, rfl, rfl⟩, ⟨_, rfl, rfl, rfl⟩, ⟨_, rfl, rfl⟩⟩

theorem witness_OnlyTheHostWritesMaskAndOverrun (a : Nat) (v : Word)
    (h : (0x40000010 ≤ a ∧ a ≤ 0x4000001C) ∨ a = 0x40000004) :
    let s := withAccess (.write a 4 v) { State.reset with overrun := true }
    (∃ t, step s = .next t) ∧ s.input.rst = false ∧ s.input.host = .write a 4 v := by
  refine ⟨step_of_accessOk ?_, rfl, rfl⟩
  have : ∃ r, regAt Config.tc a = some r := ⟨_, if_pos (by show 0x40000000 ≤ a ∧ a < 0x40000000 + 64; omega)⟩
  obtain ⟨r, hr⟩ := this
  show (match regAt Config.tc a with | none => true | some _ => true) = true
  rw [hr]

/-- The addresses of its clauses, and a cycle that changes OVERRUN each way. -/
theorem witness_OnlyTheHostWritesMaskAndOverrun_clauses :
    regAt Config.tc 0x40000010 = some .mask0 ∧ regAt Config.tc 0x40000014 = some .mask1 ∧
    regAt Config.tc 0x40000018 = some .mask2 ∧ regAt Config.tc 0x4000001C = some .mask3 ∧
    (∃ t, step (withAccess (cmdAccess 1) (firing .strobeHigh)) = .next t ∧ t.overrun = true) ∧
    ∃ t, step (withAccess (.write 0x40000004 4 8) { State.reset with overrun := true }) = .next t ∧ t.overrun = false :=
  ⟨by decide, by decide, by decide, by decide, ⟨_, rfl, rfl⟩, ⟨_, rfl, by decide⟩⟩

theorem witness_WaitHoldsEverythingForExactlyItsCycles :
    let s : State := { firing .strobeHigh with waitcnt := 9 }
    s.busy = true ∧ s.waitcnt = 9 ∧ s.RunsFor 9 := ⟨rfl, rfl, runsFor_of_inputs_nil rfl _⟩

theorem witness_MaskRegistersDoNotAffectARunningRoutine :
    (firing (.setData .a 0)).busy = true ∧ ∃ t, step (firing (.setData .a 0)) = .next t :=
  ⟨rfl, step_of_accessOk rfl⟩

theorem witness_IdleAccumulatorsAreUnobservable :
    let s := withAccess (cmdAccess 0x5) State.reset
    s.busy = false ∧ ∃ t, step s = .next t ∧ t.busy = true := ⟨rfl, _, rfl, rfl⟩

theorem witness_HostReadReturnsTheRegister :
    let s := withAccess (.read 0x40000020 4) (firing (.clockLow .a 5))
    s.input.rst = false ∧ s.input.host = .read 0x40000020 4 ∧ regAt s.cfg 0x40000020 = some .lines := by decide

/-- STATUS, MASK3 and the last unmapped word. -/
theorem witness_HostWriteSetsItsRegisterOnly (v : Word) :
    (withAccess (.write 0x40000004 4 v) State.reset).input.host = .write 0x40000004 4 v ∧
    (withAccess (.write 0x40000004 4 v) State.reset).input.rst = false ∧
    regAt Config.tc 0x40000004 = some .status ∧ regAt Config.tc 0x4000001F = some .mask3 ∧
    regAt Config.tc 0x4000003F = some .unmapped ∧ Reg.status ≠ .cmd := ⟨rfl, rfl, by decide, by decide, by decide, by decide⟩

theorem witness_LoadMaskLoadsTheNozzles :
    (List.replicate 16 (0x80 : Byte)).length = 16 ∧ (∀ j < 4, (State.reset.inputAt j).rst = false) ∧
    (List.replicate 15 (0x80 : Byte)).length ≠ 16 :=
  ⟨rfl, fun j _ => by unfold State.inputAt; rw [show State.reset.inputs = [] from rfl, List.drop_nil], by decide⟩

theorem witness_StepKeepsPowerInvariant :
    let s : State := { running (.powerUp .setRails) 1 with pstate := .railsEnabling }
    PowerInv s ∧ ∃ t, step s = .next t := ⟨⟨rfl, ⟨rfl, rfl, rfl⟩, rfl⟩, step_of_accessOk rfl⟩

theorem witness_PowerInvariantProtectsTheHead :
    (PowerInv State.reset ∧ SerialInv State.reset ∧ State.reset.busy = false ∧ State.reset.pstate = .off) ∧
    (PowerInv readyState ∧ SerialInv readyState ∧ readyState.busy = false ∧ readyState.pstate = .ready) ∧
    (let s : State := { firing .strobeHigh with lines := { poweredLines with fireN := false } }
     PowerInv s ∧ SerialInv s ∧ s.lines.headReset = false ∧ s.lines.fireN = false) :=
  ⟨⟨.inl ⟨rfl, rfl, rfl, rfl⟩, rfl, rfl, rfl⟩, ⟨.inr ⟨rfl, rfl, rfl, rfl⟩, rfl, rfl, rfl⟩,
    ⟨⟨rfl, rfl, rfl, rfl⟩, rfl, rfl, rfl⟩⟩

theorem witness_RailsChangeOnlyUnderReset :
    let s : State := { running (.powerUp .setRails) 1 with pstate := .railsEnabling }
    ∃ t, PowerInv s ∧ step s = .next t ∧ s.input.rst = false ∧ t.lines.rail1En ≠ s.lines.rail1En :=
  ⟨_, ⟨rfl, ⟨rfl, rfl, rfl⟩, rfl⟩, rfl, rfl, by decide⟩

/-- One change of PSTATE of each kind, RST's among them. -/
theorem witness_PowerStateTransitions :
    (let s := withAccess (cmdAccess 1) State.reset
     ∃ t, PowerInv s ∧ step s = .next t ∧ s.input.rst = false ∧ t.pstate ≠ s.pstate) ∧
    (let s : State := { running (.powerUp .finish) 1 with pstate := .railsEnabling, lines := poweredLines }
     ∃ t, PowerInv s ∧ step s = .next t ∧ s.input.rst = false ∧ t.pstate ≠ s.pstate) ∧
    (let s := withAccess (cmdAccess 2) readyState
     ∃ t, PowerInv s ∧ step s = .next t ∧ s.input.rst = false ∧ t.pstate ≠ s.pstate) ∧
    (let s : State := { running (.powerDown .finish) 2 with pstate := .resetAsserting }
     ∃ t, PowerInv s ∧ step s = .next t ∧ s.input.rst = false ∧ t.pstate ≠ s.pstate) ∧
    (let s : State := { readyState with inputs := [⟨true, .quiet, ⟨false, false, false⟩⟩] }
     ∃ t, PowerInv s ∧ step s = .next t ∧ s.input.rst = true) :=
  ⟨⟨_, .inl ⟨rfl, rfl, rfl, rfl⟩, rfl, rfl, by decide⟩, ⟨_, ⟨⟨rfl, rfl, rfl⟩, rfl⟩, rfl, rfl, by decide⟩,
    ⟨_, .inr ⟨rfl, rfl, rfl, rfl⟩, rfl, rfl, by decide⟩, ⟨_, ⟨⟨rfl, rfl, rfl⟩, rfl⟩, rfl, rfl, by decide⟩,
    ⟨_, .inr ⟨rfl, rfl, rfl, rfl⟩, rfl, rfl⟩⟩

theorem witness_StepKeepsSerialInvariant :
    let s : State := { firing (.clockHigh .b 63) with lines := { poweredLines with sclk := false, csBN := false } }
    SerialInv s ∧ ∃ t, step s = .next t := ⟨rfl, step_of_accessOk rfl⟩

/-- The strobe low; and the clock low with a channel selected. -/
theorem witness_ChipSelectsNeverOverlap :
    (let s : State := { firing .strobeHigh with lines := { poweredLines with fireN := false } }
     SerialInv s ∧ s.lines.fireN = false) ∧
    (let s : State := { firing (.setData .a 0) with lines := { poweredLines with sclk := false, csAN := false } }
     SerialInv s ∧ s.lines.sclk = false) := ⟨⟨rfl, rfl⟩, ⟨rfl, rfl⟩⟩

theorem witness_StepKeepsMotorInvariant :
    let s : State := { running (.advance (.stepHigh 1)) 0x00000104 with lines := { Lines.reset with motorEn := true } }
    ∃ t, MotorInv s ∧ step s = .next t ∧ t.lines.motorStep = true := ⟨_, ⟨rfl, rfl⟩, rfl, rfl⟩

theorem witness_StepKeepsLatchedCommand :
    LatchInv (firing .strobeHigh) ∧ (firing .strobeHigh).busy = true ∧ ∃ t, step (firing .strobeHigh) = .next t :=
  ⟨fun _ => ⟨.fireHigh 3, by decide, rfl⟩, rfl, step_of_accessOk rfl⟩

theorem witness_StepKeepsCountersInRange :
    IndexInv (firing (.clockHigh .a 63)) ∧ CountInv (firing (.clockHigh .a 63)) ∧ WaitInv (firing (.clockHigh .a 63)) ∧
    ∃ t, step (firing (.clockHigh .a 63)) = .next t :=
  ⟨(by decide : (63 : Nat) < 64), by unfold CountInv; decide, ⟨fun h => (by cases h), by decide⟩, step_of_accessOk rfl⟩

theorem witness_StepKeepsResultForm :
    ResultInv { readyState with result := 0x00004130 } ∧
    ∃ t, step { readyState with result := 0x00004130 } = .next t := by
  refine ⟨?_, step_of_accessOk rfl⟩
  unfold ResultInv
  decide

end Sys2Proof.Tests
end

section
/-! SUPPORT. The scope's statements: the strobe's width in every configuration (spec/00_scope.md rule R9) and the polarity of the
pins (rules R15 and R202). -/

namespace Sys2Proof.Machine

/-! ## The strobe (rules R9 and R151) -/

/-- Rule R9 bounds FIRE_MIN_NS from below in every configuration. -/
theorem le_fireMinNs (c : Config) : 1000 ≤ c.fireMinNs := by
  obtain ⟨-, hMin, -⟩ := c.valid
  exact hMin

/-- The T_FW + 1 cycles of rule R151 meet the minimum rule R9 sets. -/
theorem fireMinNs_le_fireLowNs (c : Config) : c.fireMinNs ≤ fireLowNs c := by
  obtain ⟨-, -, hWidth, -⟩ := c.valid
  exact hWidth

/-- Settles O26: both bounds are carried by the configuration itself (rule R9). -/
theorem strobeWidthMeetsTheMinimum : Obligations.StrobeWidthMeetsTheMinimum :=
  fun c => ⟨le_fireMinNs c, fireMinNs_le_fireLowNs c⟩

/-! ## The pins (rules R15 and R202) -/

/-- Rule R202: "triggered" is the level ENDSTOP_TRIG. -/
theorem endstopTriggered_iff (c : Config) (level : Bool) :
    endstopTriggered c level = true ↔ level = c.endstopTrig := beq_iff_eq

/-- Rule R15's pin level, for a line whose pin has a polarity. -/
theorem pinLevel_eq_ite (pol logical : Bool) : pinLevel pol logical = if logical then pol else !pol := rfl

/-- Settles O48: rule R15's polarity for the five lines that have one, the line itself for the other six, rule R202 for ENDSTOP. -/
theorem pinPolarity : Obligations.PinPolarity := by
  intro s
  refine ⟨?headReset, ?rail1En, ?rail2En, ?motorEn, ?motorDir, ?sclk, ?fireN, ?csAN, ?csBN, ?sdata, ?motorStep,
    endstopTriggered_iff s.cfg⟩
  case headReset | rail1En | rail2En | motorEn | motorDir => exact pinLevel_eq_ite _ _
  case sclk | fireN | csAN | csBN | sdata | motorStep => rfl

end Sys2Proof.Machine
end

section
/-! SUPPORT. A decoded word is the word of its command (spec/30_encoding.md rules R81 to R84, R88). -/

namespace Sys2Proof

/-! ## A word as the concatenation of its fields (rules R80 to R84) -/

/-- Two neighbouring fields of a word are one field. -/
theorem join_fields (w : Word) (m k n : Nat) :
    w.extractLsb' (m + k) n ++ w.extractLsb' m k = w.extractLsb' m (n + k) :=
  BitVec.extractLsb'_append_extractLsb'_eq_extractLsb' rfl

theorem fields_layoutP (w : Word) : w.extractLsb' 4 28 ++ opcField w = w :=
  (join_fields w 0 4 28).trans BitVec.extractLsb'_eq_self

theorem fields_layoutF (w : Word) :
    timeoutField w ++ w.extractLsb' 6 10 ++ waitModeField w ++ opcField w = w := by
  unfold timeoutField waitModeField
  rw [join_fields w 6 10 16, join_fields w 4 2 26]
  exact fields_layoutP w

theorem ofBool_keepField (w : Word) : BitVec.ofBool (keepField w) = w.extractLsb' 4 1 := by
  ext i hi
  obtain rfl : i = 0 := by omega
  simp [keepField]

theorem fields_layoutM (w : Word) :
    stepsField w ++ w.extractLsb' 5 3 ++ BitVec.ofBool (keepField w) ++ opcField w = w := by
  unfold stepsField
  rw [ofBool_keepField, join_fields w 5 3 24, join_fields w 4 1 27]
  exact fields_layoutP w

theorem fields_layoutH (w : Word) : w.extractLsb' 5 27 ++ BitVec.ofBool (keepField w) ++ opcField w = w := by
  rw [ofBool_keepField, join_fields w 4 1 27]
  exact fields_layoutP w

theorem opcField_eq {w : Word} {n : Nat} (h : (opcField w).toNat = n) : opcField w = BitVec.ofNat 4 n := by
  rw [← h, BitVec.ofNat_toNat, BitVec.setWidth_eq]

theorem waitModeField_eq {w : Word} {n : Nat} (h : (waitModeField w).toNat = n) :
    waitModeField w = BitVec.ofNat 2 n := by
  rw [← h, BitVec.ofNat_toNat, BitVec.setWidth_eq]

/-! ## The decoder inverted (rule R88) -/

theorem encode_decodeFire {w : Word} {i : Instr} (ho : opcField w = 3) (h : decodeFire w = .ok i) : encode i = w := by
  unfold decodeFire at h
  split at h
  · cases h
  · have hr : w.extractLsb' 6 10 = 0#10 := by simpa using ‹¬w.extractLsb' 6 10 ≠ 0›
    have word : ∀ m, waitModeField w = m → layoutF (timeoutField w) m = w := by
      rintro m rfl
      conv_rhs => rw [← fields_layoutF w, hr, ho]
      rfl
    split at h <;> cases h
    all_goals
      simp only [encode, BitVec.ofNat_toNat, BitVec.setWidth_eq]
      exact word _ (waitModeField_eq ‹_›)

/-- The encoder gives back the word a command was decoded from: the decoder drops no bit but the reserved ones it checks to
be 0. -/
theorem encode_of_decode {w : Word} {i : Instr} (h : decode w = .ok i) : encode i = w := by
  unfold decode at h
  split at h
  case h_1 ho | h_2 ho =>
    split at h
    · cases h
    · cases h
      have hr : w.extractLsb' 4 28 = 0#28 := by simpa using ‹¬w.extractLsb' 4 28 ≠ 0›
      conv_rhs => rw [← fields_layoutP w, hr, opcField_eq ho]
      rfl
  case h_3 ho => exact encode_decodeFire (opcField_eq ho) h
  case h_4 ho =>
    split at h
    · cases h
    · cases h
      have hr : w.extractLsb' 5 3 = 0#3 := by simpa using ‹¬w.extractLsb' 5 3 ≠ 0›
      conv_rhs => rw [← fields_layoutM w, hr, opcField_eq ho]
      simp only [encode, BitVec.ofInt_toInt]
      rfl
  case h_5 ho =>
    split at h
    · cases h
    · cases h
      have hr : w.extractLsb' 5 27 = 0#27 := by simpa using ‹¬w.extractLsb' 5 27 ≠ 0›
      conv_rhs => rw [← fields_layoutH w, hr, opcField_eq ho]
      rfl
  case h_6 => cases h

end Sys2Proof
end

section
/-! SUPPORT. The latched command (spec/10_state.md rule R42) and the form of RESULT (rules R33, R34, R222): both are kept by every
step. -/

namespace Sys2Proof.Machine

/-! ## The latched command (rules R42, R107) -/

/-- The invariant speaks of the sequencer's part of the state only. -/
theorem LatchInv.congr {s t : State} (h : s.view = t.view) (hs : LatchInv s) : LatchInv t := by
  have hp : LatchInv (s.view.withPins s.pins) := hs
  rw [h] at hp
  exact hp

/-- An idle block owes CMD_LATCH nothing. -/
theorem latchInv_of_idle {s : State} (h : s.busy = false) : LatchInv s :=
  fun hb => absurd (hb.symm.trans h) nofun

theorem latchInv_seqCycle {s : State} (hb : s.busy = true) (hs : LatchInv s) : LatchInv (seqCycle s) := by
  obtain hr | ⟨hidle, -⟩ := seqCycle_routine s
  · obtain ⟨i, hd, hi⟩ := hs hb
    obtain ⟨hl, -⟩ := seqCycle_latch s
    exact fun _ => ⟨i, by rw [hl, hd], by rw [hr, hi]⟩
  · exact latchInv_of_idle hidle

/-- The accepted command's own word is latched, and it decodes to that command. -/
theorem latchInv_exec {s t : State} {w : Word} {i : Instr} (hb : s.busy = false) (hd : decode w = .ok i)
    (h : exec i s = .next t) : LatchInv t := by
  obtain ⟨rfl, -⟩ | ⟨p, m, u, n, a, rfl, hu⟩ := exec_idle_cases hb h
  · exact latchInv_of_idle hb
  · exact fun _ => ⟨i, by rw [State.accept_cmdLatch, encode_of_decode hd, hd], hu.symm⟩

/-- Settles O56: a step latches a word only where it starts that word's routine. -/
theorem stepKeepsLatchedCommand : Obligations.StepKeepsLatchedCommand := fun _ _ hs h =>
  step_keeps (fun _ _ => LatchInv.congr) (fun _ => latchInv_of_idle rfl) (fun _ => latchInv_seqCycle)
    (fun _ _ _ hb _ => latchInv_of_idle hb) (fun _ _ _ _ hb hd _ => latchInv_exec hb hd) hs h

/-! ## RESULT (rules R33, R34, R105, R221, R222) -/

section
variable (opc : BitVec 4) (f : DoneFields)

@[simp] theorem resultErr_doneResult : resultErr (doneResult opc f) = 0 := by
  unfold resultErr doneResult
  rw [BitVec.extractLsb'_append_eq_of_add_le (by decide), BitVec.extractLsb'_eq_self]
  rfl

@[simp] theorem resultOpc_doneResult : resultOpc (doneResult opc f) = opc := by
  unfold resultOpc doneResult
  rw [BitVec.extractLsb'_append_eq_of_le (by decide), BitVec.extractLsb'_append_eq_of_le (by decide),
    BitVec.extractLsb'_append_eq_of_add_le (by decide)]
  exact BitVec.extractLsb'_eq_self

@[simp] theorem resultRbValid_doneResult : resultRbValid (doneResult opc f) = f.rbValid := by
  simp only [resultRbValid, doneResult, BitVec.getLsbD_append]
  simp

@[simp] theorem resultReadyOk_doneResult : resultReadyOk (doneResult opc f) = f.readyOk := by
  simp only [resultReadyOk, doneResult, BitVec.getLsbD_append]
  simp

@[simp] theorem resultEndstopHit_doneResult : resultEndstopHit (doneResult opc f) = f.endstopHit := by
  simp only [resultEndstopHit, doneResult, BitVec.getLsbD_append]
  simp

@[simp] theorem resultReadyTimeout_doneResult :
    resultReadyTimeout (doneResult opc f) = (f.rbValid && !f.readyOk) := by
  simp only [resultReadyTimeout, doneResult, BitVec.getLsbD_append]
  simp

@[simp] theorem resultHomeExhausted_doneResult :
    resultHomeExhausted (doneResult opc f) = (opc == 5 && !f.endstopHit) := by
  simp only [resultHomeExhausted, doneResult, BitVec.getLsbD_append]
  simp

theorem reserved3_doneResult : (doneResult opc f).getLsbD 3 = false := by
  simp only [doneResult, BitVec.getLsbD_append]
  simp

theorem reserved16_doneResult : (doneResult opc f).extractLsb' 16 16 = 0 := by
  unfold doneResult
  simp only [BitVec.extractLsb'_append_eq_of_le, Nat.reduceLeDiff, Nat.reduceSub]
  rfl

end

/-- A rejection leaves every bit above OPC 0 (rule R221). -/
theorem getLsbD_rejectResult (w : Word) (r : Reject) {j : Nat} (h : 8 ≤ j) :
    (rejectResult w r).getLsbD j = false := by
  unfold rejectResult
  rw [BitVec.getLsbD_append, if_neg (by omega), BitVec.getLsbD_append, if_neg (by omega), BitVec.getLsbD_append,
    if_neg (by omega), BitVec.getLsbD_zero]

@[simp] theorem resultErr_rejectResult (w : Word) (r : Reject) : resultErr (rejectResult w r) = rejectCode r := by
  unfold resultErr rejectResult
  rw [BitVec.extractLsb'_append_eq_of_add_le (by decide), BitVec.extractLsb'_eq_self]

theorem reserved3_rejectResult (w : Word) (r : Reject) : (rejectResult w r).getLsbD 3 = false := by
  simp only [rejectResult, BitVec.getLsbD_append]
  simp

theorem reserved16_rejectResult (w : Word) (r : Reject) : (rejectResult w r).extractLsb' 16 16 = 0 := by
  ext j hj
  rw [BitVec.getElem_extractLsb', getLsbD_rejectResult w r (by omega)]
  simp

/-- The codes of rule R222 are 1 to 3: none is the 0 of a completion. -/
theorem rejectCode_range (r : Reject) : rejectCode r ≤ 3 ∧ rejectCode r ≠ 0 := by
  cases r <;> decide

/-- The invariant speaks of RESULT only. -/
theorem ResultInv.congr {s t : State} (h : t.result = s.result) (hs : ResultInv s) : ResultInv t := by
  unfold ResultInv
  rw [h]
  exact hs

/-- The result of a completion has the form of rule R33. -/
theorem resultInv_of_done {s : State} {opc : BitVec 4} {f : DoneFields} (h : s.result = doneResult opc f) :
    ResultInv s := by
  unfold ResultInv
  rw [h]
  refine ⟨reserved16_doneResult opc f, reserved3_doneResult opc f, by simp, by simp, by simp⟩

/-- The result of a rejection has the form of rule R33: ERR is not 0, so HOME_EXHAUSTED is 0 whatever the opcode. -/
theorem resultInv_rejectWith (s : State) (w : Word) (r : Reject) : ResultInv (s.rejectWith w r) := by
  obtain ⟨hle, hne⟩ := rejectCode_range r
  have zero : ∀ {j}, 8 ≤ j → (rejectResult w r).getLsbD j = false := getLsbD_rejectResult w r
  refine ⟨reserved16_rejectResult w r, reserved3_rejectResult w r, by simpa using hle, ?_, ?_⟩
  · unfold resultReadyTimeout resultRbValid
    rw [State.rejectWith_result, zero (by decide), zero (by decide), Bool.false_and]
  · unfold resultHomeExhausted
    rw [State.rejectWith_result, zero (by decide), resultErr_rejectResult, beq_false_of_ne hne, Bool.and_false,
      Bool.false_and]

theorem resultInv_seqCycle {s : State} (hs : ResultInv s) : ResultInv (seqCycle s) := by
  obtain h | ⟨⟨f, h⟩, -⟩ := seqCycle_result s
  · exact hs.congr h
  · exact resultInv_of_done h

/-- A command's acceptance leaves RESULT as it was (rule R107); the one other outcome is a rejection. -/
theorem resultInv_exec {s t : State} {i : Instr} (hb : s.busy = false) (hs : ResultInv s) (h : exec i s = .next t) :
    ResultInv t := by
  obtain ⟨rfl, -⟩ | ⟨p, m, u, n, a, rfl, -⟩ := exec_idle_cases hb h
  · exact resultInv_rejectWith s _ _
  · exact hs.congr rfl

/-- Settles O58: RESULT is written by completions and rejections only, and both write a word of rule R33's form. -/
theorem stepKeepsResultForm : Obligations.StepKeepsResultForm := fun _ _ hs h =>
  step_keeps (fun _ _ hv => ResultInv.congr (congrArg SeqView.result hv.symm))
    (fun _ => resultInv_of_done (opc := 0) (f := {}) rfl) (fun _ _ => resultInv_seqCycle) (fun s w r _ _ => resultInv_rejectWith s w r)
    (fun _ _ _ _ hb _ hi => resultInv_exec hb hi) hs h

end Sys2Proof.Machine
end

section
/-! SUPPORT. A command written to an idle block: what its acceptance writes, whatever the accumulators held
(spec/40_sequencer.md rule R107, spec/10_state.md rule R44, spec/60_exceptions.md rule R224). -/

namespace Sys2Proof.Machine

/-- The state with other accumulators. -/
def State.withAcc (a : Acc) (s : State) : State := { s with acc := a }

@[simp] theorem State.withAcc_busy (s : State) (a : Acc) : (s.withAcc a).busy = s.busy := rfl
@[simp] theorem State.withAcc_pstate (s : State) (a : Acc) : (s.withAcc a).pstate = s.pstate := rfl

/-- SHIFT_BUF at the end of a command's acceptance: FIRE takes the snapshot of the staging mask (rule R41). -/
def acceptedShiftBuf (s : State) (i : Instr) : Mask := if commandRoutine i = .fire then s.mask else s.shiftBuf

/-- The end of the acceptance cycle of the command `i`: its word latched, PSTATE and SHIFT_BUF as the command takes them, its
routine at `u` after `n` wait cycles with the accumulators `a` (rule R107). -/
def State.accepted (i : Instr) (u : Upc) (n : Nat) (a : Acc) (s : State) : State :=
  { s with pstate := acceptedPState s.pstate i, shiftBuf := acceptedShiftBuf s i }.accept (encode i) u n a

/-- FIRE in READY snapshots the staging mask (rule R41) and starts where rule R147 does. -/
theorem offerFire_ready {s : State} {i : Instr} (waits : Bool) (hb : s.busy = false) (hp : s.pstate = .ready)
    (hi : commandRoutine i = .fire) :
    s.offerFire (encode i) waits =
      s.accepted i (.fire (fireStart waits (timeoutField (encode i)).toNat)) 0 { Acc.zero with rbValid := waits } := by
  unfold State.offerFire State.accepted acceptedShiftBuf
  rw [if_neg (by simp [hb]), if_neg (by simp [hp]), if_pos hi]
  cases i <;> cases hi <;> rfl

/-- FIRE outside READY is rejected with NOT_POWERED (rule R224). -/
theorem exec_fire_unpowered {s : State} {i : Instr} (hb : s.busy = false) (hi : commandRoutine i = .fire)
    (hp : s.pstate ≠ .ready) : exec i s = .next (s.rejectWith (encode i) .notPowered) := by
  have rejected (waits : Bool) : s.offerFire (encode i) waits = s.rejectWith (encode i) .notPowered := by
    unfold State.offerFire
    rw [if_neg (by simp [hb]), if_pos hp]
  cases i with
  | fireNone n => exact congrArg _ (rejected false)
  | fireHigh n => exact congrArg _ (rejected true)
  | fireLow n => exact congrArg _ (rejected true)
  | powerUp | powerDown | advance | home => cases hi

/-- POWER_UP in READY goes straight to its `done` (rule R176). -/
theorem exec_powerUp_noop {s : State} (hb : s.busy = false) (hp : s.pstate = .ready) (b : Acc) :
    exec .powerUp (s.withAcc b)
      = .next (s.accepted .powerUp (.powerUp .finish) 0 { Acc.zero with noop := true }) := by
  simp only [exec, execPowerUp, State.withAcc_busy, hb, Bool.false_eq_true, if_false]
  cases s
  cases hp
  rfl

/-- POWER_UP outside READY starts with its first settle delay (rule R172). -/
theorem exec_powerUp_start {s : State} (hb : s.busy = false) (hp : s.pstate ≠ .ready) (b : Acc) :
    exec .powerUp (s.withAcc b) = .next (s.accepted .powerUp (.powerUp .setRails) s.cfg.tPu1 Acc.zero) := by
  simp only [exec, execPowerUp, State.withAcc_busy, hb, Bool.false_eq_true, if_false]
  obtain ⟨_, _, p⟩ := s
  cases p with
  | ready => exact absurd rfl hp
  | off | railsEnabling | resetAsserting => rfl

/-- POWER_DOWN in OFF goes straight to its `done` (rule R183). -/
theorem exec_powerDown_noop {s : State} (hb : s.busy = false) (hp : s.pstate = .off) (b : Acc) :
    exec .powerDown (s.withAcc b)
      = .next (s.accepted .powerDown (.powerDown .finish) 0 { Acc.zero with noop := true }) := by
  simp only [exec, execPowerDown, State.withAcc_busy, hb, Bool.false_eq_true, if_false]
  cases s
  cases hp
  rfl

/-- POWER_DOWN outside OFF starts with the reset's assertion (rule R180). -/
theorem exec_powerDown_start {s : State} (hb : s.busy = false) (hp : s.pstate ≠ .off) (b : Acc) :
    exec .powerDown (s.withAcc b) = .next (s.accepted .powerDown (.powerDown .assertReset) 0 Acc.zero) := by
  simp only [exec, execPowerDown, State.withAcc_busy, hb, Bool.false_eq_true, if_false]
  obtain ⟨_, _, p⟩ := s
  cases p with
  | off => exact absurd rfl hp
  | ready | railsEnabling | resetAsserting => rfl

/-- A command written to an idle block is accepted, FIRE in READY only. -/
theorem exec_accepted {s : State} {i : Instr} (hb : s.busy = false) (hp : commandRoutine i = .fire → s.pstate = .ready) :
    ∃ u n a, u.routine = commandRoutine i ∧ ∀ b, exec i (s.withAcc b) = .next (s.accepted i u n a) := by
  have hn (b : Acc) : ¬(s.withAcc b).busy = true := by simp [hb]
  have fire (waits : Bool) (b : Acc) := offerFire_ready (s := s.withAcc b) (i := i) waits hb
  cases i with
  | powerUp =>
    by_cases hready : s.pstate = .ready
    · exact ⟨_, _, _, rfl, exec_powerUp_noop hb hready⟩
    · exact ⟨_, _, _, rfl, exec_powerUp_start hb hready⟩
  | powerDown =>
    by_cases hoff : s.pstate = .off
    · exact ⟨_, _, _, rfl, exec_powerDown_noop hb hoff⟩
    · exact ⟨_, _, _, rfl, exec_powerDown_start hb hoff⟩
  | fireNone n => exact ⟨_, _, _, rfl, fun b => congrArg _ (fire false b (hp rfl) rfl)⟩
  | fireHigh n => exact ⟨_, _, _, rfl, fun b => congrArg _ (fire true b (hp rfl) rfl)⟩
  | fireLow n => exact ⟨_, _, _, rfl, fun b => congrArg _ (fire true b (hp rfl) rfl)⟩
  | advance n k =>
    simp only [exec, execAdvance, if_neg (hn _)]
    split <;> exact ⟨_, _, _, rfl, fun b => rfl⟩
  | home k =>
    simp only [exec, execHome, if_neg (hn _)]
    exact ⟨_, _, _, rfl, fun b => rfl⟩

/-- What a command written to an idle block can do, whatever the accumulators hold: FIRE outside READY is rejected, every other
command is accepted. -/
theorem exec_idle {s : State} (i : Instr) (hb : s.busy = false) :
    (commandRoutine i = .fire ∧ s.pstate ≠ .ready ∧
      ∀ b, exec i (s.withAcc b) = .next ((s.rejectWith (encode i) .notPowered).withAcc b)) ∨
    ((commandRoutine i = .fire → s.pstate = .ready) ∧
      ∃ u n a, u.routine = commandRoutine i ∧ ∀ b, exec i (s.withAcc b) = .next (s.accepted i u n a)) := by
  by_cases hp : commandRoutine i = .fire → s.pstate = .ready
  · exact .inr ⟨hp, exec_accepted hb hp⟩
  · obtain ⟨hi, hne⟩ := Classical.not_imp.1 hp
    exact .inl ⟨hi, hne, fun b => exec_fire_unpowered (s := s.withAcc b) hb hi hne⟩

/-- The next state of a command written to an idle block, case by case. -/
theorem exec_idle_next {s t : State} {i : Instr} (hb : s.busy = false) (h : exec i s = .next t) :
    t = s.rejectWith (encode i) .notPowered ∨
    ((commandRoutine i = .fire → s.pstate = .ready) ∧
      ∃ u n a, u.routine = commandRoutine i ∧ t = s.accepted i u n a) := by
  obtain ⟨-, -, he⟩ | ⟨hp, u, n, a, hu, he⟩ := exec_idle i hb
  · exact .inl (Host.Outcome.next.inj (h.symm.trans (he s.acc)))
  · exact .inr ⟨hp, u, n, a, hu, Host.Outcome.next.inj (h.symm.trans (he s.acc))⟩

end Sys2Proof.Machine
end

section
/-! SUPPORT. PSTATE and the power lines (spec/10_state.md rules R26, R27, spec/43_power.md rule R185): what can change them, and
that every step keeps them in agreement. -/

namespace Sys2Proof.Machine

/-! ## What the sequencer does to them (rules R172, R180) -/

/-- The sequencer writes PSTATE only at the `done` of a power routine that was no no-op. -/
theorem seqCycle_pstate (s : State) :
    (seqCycle s).pstate = s.pstate ∨
    (s.AtOp (.powerUp .finish) ∧ s.acc.noop = false ∧ (seqCycle s).pstate = .ready) ∨
    (s.AtOp (.powerDown .finish) ∧ s.acc.noop = false ∧ (seqCycle s).pstate = .off) := by
  unfold seqCycle
  split
  · exact .inl rfl
  · have hw : s.waitcnt = 0 := by omega
    unfold microOp
    cases hu : s.upc with
    | idle => exact .inl rfl
    | powerUp p =>
      cases p with
      | setRails | releaseReset => exact .inl rfl
      | finish =>
        cases hn : s.acc.noop
        · exact .inr (.inl ⟨⟨hu, hw⟩, rfl, by simp [powerUpOp, hn]⟩)
        · exact .inl (by simp [powerUpOp, hn])
    | powerDown p =>
      cases p with
      | assertReset | cutRails => exact .inl rfl
      | finish =>
        cases hn : s.acc.noop
        · exact .inr (.inr ⟨⟨hu, hw⟩, rfl, by simp [powerDownOp, hn]⟩)
        · exact .inl (by simp [powerDownOp, hn])
    | fire p =>
      left
      cases p with
      | sampleReady n => simp only [fireOp, readySampleOp]; split <;> [rfl; (split <;> rfl)]
      | clockHigh ch k => simp only [fireOp, clockHighOp]; split <;> rfl
      | selectHigh ch => cases ch <;> rfl
      | _ => rfl
    | advance p =>
      left
      cases p with
      | stepLow i => simp only [advanceOp, advanceStepLowOp]; split <;> rfl
      | _ => rfl
    | home p =>
      left
      cases p with
      | sampleEndstop i => simp only [homeOp, homeSampleOp]; split <;> [rfl; (split <;> rfl)]
      | _ => rfl

/-- PSTATE and the power lines are the same. -/
def SamePower (s t : State) : Prop :=
  t.pstate = s.pstate ∧ t.lines.rail1En = s.lines.rail1En ∧ t.lines.rail2En = s.lines.rail2En ∧
  t.lines.headReset = s.lines.headReset

/-- No routine but the two power routines writes a power line ("Lines written" of rules R147, R193, R203). -/
theorem power_not_mem_routineLines {r : Routine} (hup : r ≠ .powerUp) (hdown : r ≠ .powerDown) :
    Line.rail1En ∉ routineLines r ∧ Line.rail2En ∉ routineLines r ∧ Line.headReset ∉ routineLines r := by
  cases r with
  | powerUp => exact absurd rfl hup
  | powerDown => exact absurd rfl hdown
  | idle | fire | advance | home => decide

theorem seqCycle_samePower {s : State} (hup : s.routine ≠ .powerUp) (hdown : s.routine ≠ .powerDown) :
    SamePower s (seqCycle s) := by
  obtain ⟨h1, h2, hr⟩ := power_not_mem_routineLines hup hdown
  refine ⟨?_, seqCycle_lines s _ h1, seqCycle_lines s _ h2, seqCycle_lines s _ hr⟩
  obtain h | ⟨⟨hu, -⟩, -⟩ | ⟨⟨hu, -⟩, -⟩ := seqCycle_pstate s
  · exact h
  · exact absurd (congrArg Upc.routine hu) hup
  · exact absurd (congrArg Upc.routine hu) hdown

/-! ## The invariant (rules R27, R185) -/

/-- The invariant speaks of the sequencer's part of the state only. -/
theorem PowerInv.congr {s t : State} (h : s.view = t.view) (hs : PowerInv s) : PowerInv t := by
  have hp : PowerInv (s.view.withPins s.pins) := hs
  rw [h] at hp
  exact hp

theorem State.powerSettled_congr {s t : State} (h : SamePower s t) : t.powerSettled ↔ s.powerSettled := by
  obtain ⟨hp, h1, h2, hr⟩ := h
  simp only [State.powerSettled, Lines.headOff, Lines.headOn, hp, h1, h2, hr]

/-- Outside the power routines the invariant is rule R27's agreement, with READY while FIRE runs (rule R224). -/
theorem powerInv_iff_settled {s : State} (hup : s.routine ≠ .powerUp) (hdown : s.routine ≠ .powerDown) :
    PowerInv s ↔ s.powerSettled ∧ (s.routine = .fire → s.pstate = .ready) := by
  unfold State.routine at hup hdown ⊢
  unfold PowerInv
  cases hu : s.upc with
  | powerUp p => exact absurd (congrArg Upc.routine hu) hup
  | powerDown p => exact absurd (congrArg Upc.routine hu) hdown
  | idle | advance | home => exact ⟨fun h => ⟨h, nofun⟩, And.left⟩
  | fire p =>
    constructor
    · exact fun ⟨hp, hl⟩ => ⟨.inr ⟨hp, hl⟩, fun _ => hp⟩
    · rintro ⟨⟨hp, -⟩ | ⟨hp, hl⟩, hready⟩
      · exact absurd (hp.symm.trans (hready rfl)) nofun
      · exact ⟨hp, hl⟩

theorem powerInv_idle {s : State} (hb : s.busy = false) : PowerInv s ↔ s.powerSettled := by
  have hr : s.routine = .idle := congrArg Upc.routine ((State.busy_eq_false s).1 hb)
  rw [powerInv_iff_settled (by simp [hr]) (by simp [hr])]
  simp [hr]

/-- One micro-op of POWER_UP: rails off and reset asserted, rails on and reset asserted, rails on and reset released
(rules R172, R174). -/
theorem powerInv_powerUpOp {s : State} {p : PowerUpPc} (hu : s.upc = .powerUp p) (hs : PowerInv s) :
    PowerInv (powerUpOp p s) := by
  unfold PowerInv at hs
  rw [hu] at hs
  cases p with
  | setRails =>
    obtain ⟨hp, ⟨-, -, hreset⟩, hn⟩ := hs
    exact ⟨hp, ⟨rfl, rfl, hreset⟩, hn⟩
  | releaseReset =>
    obtain ⟨hp, ⟨h1, h2, -⟩, hn⟩ := hs
    exact ⟨⟨h1, h2, rfl⟩, by simpa [powerUpOp, hn] using hp⟩
  | finish =>
    obtain ⟨hl, hp⟩ := hs
    refine .inr ⟨?_, hl⟩
    cases hn : s.acc.noop with
    | false => simp [powerUpOp, hn]
    | true => simpa [powerUpOp, hn] using hp

/-- One micro-op of POWER_DOWN: the way of POWER_UP back (rules R180, R181). -/
theorem powerInv_powerDownOp {s : State} {p : PowerDownPc} (hu : s.upc = .powerDown p) (hs : PowerInv s) :
    PowerInv (powerDownOp p s) := by
  unfold PowerInv at hs
  rw [hu] at hs
  cases p with
  | assertReset =>
    obtain ⟨hp, ⟨h1, h2, -⟩, hn⟩ := hs
    exact ⟨hp, ⟨h1, h2, rfl⟩, hn⟩
  | cutRails =>
    obtain ⟨hp, ⟨-, -, hreset⟩, hn⟩ := hs
    exact ⟨⟨rfl, rfl, hreset⟩, by simpa [powerDownOp, hn] using hp⟩
  | finish =>
    obtain ⟨hl, hp⟩ := hs
    refine .inl ⟨?_, hl⟩
    cases hn : s.acc.noop with
    | false => simp [powerDownOp, hn]
    | true => simpa [powerDownOp, hn] using hp

/-- Another routine than a power routine keeps the power state it runs in, to its end. -/
theorem powerInv_of_samePower {s t : State} (hup : s.routine ≠ .powerUp) (hdown : s.routine ≠ .powerDown)
    (hs : PowerInv s) (hsame : SamePower s t) (hr : t.routine = s.routine ∨ t.busy = false) : PowerInv t := by
  obtain ⟨hset, hready⟩ := (powerInv_iff_settled hup hdown).1 hs
  have hset' := (State.powerSettled_congr hsame).2 hset
  obtain hr | hb := hr
  · exact (powerInv_iff_settled (hr ▸ hup) (hr ▸ hdown)).2 ⟨hset', fun hf => hsame.1.trans (hready (hr.symm.trans hf))⟩
  · exact (powerInv_idle hb).2 hset'

theorem powerInv_seqCycle {s : State} (hs : PowerInv s) : PowerInv (seqCycle s) := by
  by_cases hw : 0 < s.waitcnt
  · rw [seqCycle, if_pos hw]
    exact hs
  cases hu : s.upc with
  | powerUp p =>
    rw [seqCycle, if_neg hw, microOp, hu]
    exact powerInv_powerUpOp hu hs
  | powerDown p =>
    rw [seqCycle, if_neg hw, microOp, hu]
    exact powerInv_powerDownOp hu hs
  | idle | fire | advance | home =>
    have hup : s.routine ≠ .powerUp := by simp [State.routine, hu, Upc.routine]
    have hdown : s.routine ≠ .powerDown := by simp [State.routine, hu, Upc.routine]
    exact powerInv_of_samePower hup hdown hs (seqCycle_samePower hup hdown) ((seqCycle_routine s).imp_right And.left)

/-- POWER_UP leaves OFF for RAILS_ENABLING and is a no-op in READY (rules R172, R176). -/
theorem powerInv_exec_powerUp {s t : State} (hb : s.busy = false) (hs : s.powerSettled)
    (h : exec .powerUp s = .next t) : PowerInv t := by
  obtain ⟨hp, hl⟩ | ⟨hp, hl⟩ := hs
  · cases h.symm.trans (exec_powerUp_start hb (by simp [hp]) s.acc)
    exact ⟨by simp [State.accepted, acceptedPState, hp], hl, rfl⟩
  · cases h.symm.trans (exec_powerUp_noop hb hp s.acc)
    exact ⟨hl, by simp [State.accepted, acceptedPState, hp]⟩

/-- POWER_DOWN leaves READY for RESET_ASSERTING and is a no-op in OFF (rules R180, R183). -/
theorem powerInv_exec_powerDown {s t : State} (hb : s.busy = false) (hs : s.powerSettled)
    (h : exec .powerDown s = .next t) : PowerInv t := by
  obtain ⟨hp, hl⟩ | ⟨hp, hl⟩ := hs
  · cases h.symm.trans (exec_powerDown_noop hb hp s.acc)
    exact ⟨hl, by simp [State.accepted, acceptedPState, hp]⟩
  · cases h.symm.trans (exec_powerDown_start hb (by simp [hp]) s.acc)
    exact ⟨by simp [State.accepted, acceptedPState, hp], hl, rfl⟩

theorem powerInv_exec {s t : State} {i : Instr} (hb : s.busy = false) (hs : PowerInv s) (h : exec i s = .next t) :
    PowerInv t := by
  have hset : s.powerSettled := (powerInv_idle hb).1 hs
  cases hi : i with
  | powerUp => exact powerInv_exec_powerUp hb hset (hi ▸ h)
  | powerDown => exact powerInv_exec_powerDown hb hset (hi ▸ h)
  | fireNone | fireHigh | fireLow | advance | home =>
    obtain rfl | ⟨hp, u, n, a, hu, rfl⟩ := exec_idle_next hb h
    · exact hs
    · rw [hi] at hu hp
      subst hi
      refine (powerInv_iff_settled ?_ ?_).2 ⟨hset, fun hf => hp (hu.symm.trans hf)⟩
      all_goals exact fun hr => absurd (hu.symm.trans hr) nofun

/-- Every step keeps PSTATE and the power lines in agreement. -/
theorem PowerInv.step {s t : State} (hs : PowerInv s) (h : step s = .next t) : PowerInv t :=
  step_keeps (fun _ _ => PowerInv.congr) (fun _ => .inl ⟨rfl, rfl, rfl, rfl⟩) (fun _ _ => powerInv_seqCycle)
    (fun _ _ _ _ hi => hi) (fun _ _ _ _ hb _ => powerInv_exec hb) hs h

/-- Settles O49: each power routine's positions carry the levels they need, and no other routine touches PSTATE or a power line. -/
theorem stepKeepsPowerInvariant : Obligations.StepKeepsPowerInvariant := fun _ _ => PowerInv.step

end Sys2Proof.Machine
end

section
/-! SUPPORT. What the power invariant gives (spec/10_state.md rules R26, R27, spec/43_power.md rule R185): the head is never in a
harmful combination, and PSTATE has four ways to change. -/

namespace Sys2Proof.Machine

/-! ## The head (rules R27, R185) -/

/-- The power lines pass through three combinations only. -/
theorem PowerInv.head {s : State} (hs : PowerInv s) : s.lines.headOff ∨ s.lines.headHeld ∨ s.lines.headOn := by
  cases hu : s.upc with
  | powerUp p =>
    unfold PowerInv at hs
    rw [hu] at hs
    cases p with
    | setRails => obtain ⟨-, hl, -⟩ := hs; exact .inl hl
    | releaseReset => obtain ⟨-, hl, -⟩ := hs; exact .inr (.inl hl)
    | finish => obtain ⟨hl, -⟩ := hs; exact .inr (.inr hl)
  | powerDown p =>
    unfold PowerInv at hs
    rw [hu] at hs
    cases p with
    | assertReset => obtain ⟨-, hl, -⟩ := hs; exact .inr (.inr hl)
    | cutRails => obtain ⟨-, hl, -⟩ := hs; exact .inr (.inl hl)
    | finish => obtain ⟨hl, -⟩ := hs; exact .inl hl
  | idle | fire | advance | home =>
    have hr : s.routine = _ := congrArg Upc.routine hu
    obtain ⟨⟨-, hl⟩ | ⟨-, hl⟩, -⟩ :=
      (powerInv_iff_settled (fun h => nomatch hr.symm.trans h) (fun h => nomatch hr.symm.trans h)).1 hs
    · exact .inl hl
    · exact .inr (.inr hl)

/-- The strobe and the chip selects are at 0 in FIRE only (rules R135, R151). -/
theorem SerialInv.fire_of_low {s : State} (hs : SerialInv s)
    (h : s.lines.fireN = false ∨ s.lines.csAN = false ∨ s.lines.csBN = false) : s.routine = .fire := by
  have fire_of_not_idle : s.lines.serial ≠ serialIdle → s.routine = .fire := by
    intro hne
    unfold SerialInv at hs
    split at hs
    · exact congrArg Upc.routine ‹_›
    · exact absurd hs hne
  refine fire_of_not_idle fun he => ?_
  simp only [Lines.serial, serialIdle, SerialLevels.mk.injEq] at he
  obtain ⟨-, ha, hb, hf⟩ := he
  simp [ha, hb, hf] at h

theorem State.powerSettled.headOff {s : State} (hs : s.powerSettled) (hoff : s.pstate = .off) : s.lines.headOff := by
  obtain ⟨-, hl⟩ | ⟨hp, -⟩ := hs
  · exact hl
  · exact absurd (hoff.symm.trans hp) nofun

theorem State.powerSettled.headOn {s : State} (hs : s.powerSettled) (hready : s.pstate = .ready) : s.lines.headOn := by
  obtain ⟨hp, -⟩ | ⟨-, hl⟩ := hs
  · exact absurd (hready.symm.trans hp) nofun
  · exact hl

/-- Settles O50: from the invariant's levels at each position, and the serial invariant for the strobe. -/
theorem powerInvariantProtectsTheHead : Obligations.PowerInvariantProtectsTheHead := by
  intro s hs hserial
  have settled (hb : s.busy = false) : s.powerSettled := (powerInv_idle hb).1 hs
  refine ⟨fun hb => (settled hb).headOff, fun hb => (settled hb).headOn, fun hb => (settled hb).imp And.left And.left,
    fun hreset => ?released, fun hlow => ?strobe⟩
  case released =>
    obtain ⟨-, -, h⟩ | ⟨-, -, h⟩ | ⟨h1, h2, -⟩ := hs.head
    · exact absurd (hreset.symm.trans h) nofun
    · exact absurd (hreset.symm.trans h) nofun
    · exact ⟨h1, h2⟩
  case strobe =>
    have hfire : s.routine = .fire := hserial.fire_of_low hlow
    obtain ⟨hset, hready⟩ := (powerInv_iff_settled (by simp [hfire]) (by simp [hfire])).1 hs
    exact ⟨hready hfire, hset.headOn (hready hfire)⟩

/-! ## The changes of PSTATE (rule R26) -/

/-- The four changes of rule R26, with their causes. -/
def PStateChange (s : State) (p : PState) : Prop :=
  (s.pstate = .off ∧ p = .railsEnabling ∧ s.busy = false ∧ s.Offers 0x00000001) ∨
  (s.pstate = .railsEnabling ∧ p = .ready ∧ s.AtOp (.powerUp .finish)) ∨
  (s.pstate = .ready ∧ p = .resetAsserting ∧ s.busy = false ∧ s.Offers 0x00000002) ∨
  (s.pstate = .resetAsserting ∧ p = .off ∧ s.AtOp (.powerDown .finish))

/-- The sequencer's changes: the `done` of POWER_UP and of POWER_DOWN, each from its own transient value. -/
theorem pstateChange_seqCycle {s : State} (hs : PowerInv s) (h : (seqCycle s).pstate ≠ s.pstate) :
    PStateChange s (seqCycle s).pstate := by
  obtain he | ⟨hat, hn, hp⟩ | ⟨hat, hn, hp⟩ := seqCycle_pstate s
  · exact absurd he h
  · unfold PowerInv at hs
    rw [hat.1] at hs
    obtain ⟨-, hs⟩ := hs
    rw [hn] at hs
    exact .inr (.inl ⟨hs, hp, hat⟩)
  · unfold PowerInv at hs
    rw [hat.1] at hs
    obtain ⟨-, hs⟩ := hs
    rw [hn] at hs
    exact .inr (.inr (.inr ⟨hs, hp, hat⟩))

/-- The host's changes: the acceptance of POWER_UP in OFF and of POWER_DOWN in READY (rule R107). -/
theorem pstateChange_exec {s t : State} {w : Word} {i : Instr} (hb : s.busy = false) (ho : s.Offers w)
    (hd : decode w = .ok i) (he : exec i s = .next t) (h : t.pstate ≠ s.pstate) : PStateChange s t.pstate := by
  rw [← encode_of_decode hd] at ho
  obtain rfl | ⟨-, u, n, a, -, rfl⟩ := exec_idle_next hb he
  · exact absurd rfl h
  · change acceptedPState s.pstate i ≠ s.pstate at h
    change PStateChange s (acceptedPState s.pstate i)
    cases i with
    | powerUp =>
      by_cases hp : s.pstate = .off
      · exact .inl ⟨hp, if_pos hp, hb, ho⟩
      · exact absurd (if_neg hp) h
    | powerDown =>
      by_cases hp : s.pstate = .ready
      · exact .inr (.inr (.inl ⟨hp, if_pos hp, hb, ho⟩))
      · exact absurd (if_neg hp) h
    | fireNone | fireHigh | fireLow | advance | home => exact absurd rfl h

theorem pstateChange_step {s t : State} (hs : PowerInv s) (h : step s = .next t) (hr : s.input.rst = false)
    (hne : t.pstate ≠ s.pstate) : PStateChange s t.pstate := by
  obtain ⟨hr', -⟩ | ⟨-, -, hv⟩ | ⟨-, hb, hv | ⟨w, ho, ⟨r, -, hv⟩ | ⟨i, u, hd, he, hv⟩⟩⟩ := step_view_cases h
  · exact absurd (hr.symm.trans hr') nofun
  all_goals
    have hp := congrArg SeqView.pstate hv
    change t.pstate = _ at hp
    rw [hp] at hne ⊢
  · exact pstateChange_seqCycle hs hne
  · exact absurd rfl hne
  · exact absurd rfl hne
  · exact pstateChange_exec hb ho hd he hne

/-- Settles O52: PSTATE is written by two acceptances, two `done`s and RST only, and an idle block is settled. -/
theorem powerStateTransitions : Obligations.PowerStateTransitions := by
  intro s t hs h
  refine ⟨fun hr => ?rst, pstateChange_step hs h, fun htransient => ?busy⟩
  case rst =>
    obtain ⟨-, rfl⟩ | ⟨hr', -⟩ := step_cases h
    · rfl
    · exact absurd (hr.symm.trans hr') nofun
  case busy =>
    by_contra hb
    obtain ⟨hp, -⟩ | ⟨hp, -⟩ := (powerInv_idle (by simpa using hb)).1 (hs.step h) <;> simp [hp] at htransient

end Sys2Proof.Machine
end

section
/-! SUPPORT. The frame of a cycle without RST: what the running routine may change, and what starts and ends a routine
(spec/10_state.md rules R21, R33, R35, R41, R42, spec/40_sequencer.md rules R105, R107, R110), and what follows for the reset
state (spec/70_reset_and_hazards.md rule R251). -/

namespace Sys2Proof.Machine

/-- A cycle without RST, on the sequencer's part: one sequencer cycle while a routine runs; while idle nothing, or the rejection or
the acceptance of the word the host writes to CMD (rules R66, R107). -/
theorem step_active_cases {s t : State} (h : step s = .next t) (hr : s.input.rst = false) :
    (s.busy = true ∧ t.view = (seqCycle s).view) ∨
    (s.busy = false ∧ t.view = s.view) ∨
    (s.busy = false ∧ ∃ w r, s.Offers w ∧ t.view = (s.rejectWith w r).view) ∨
    (s.busy = false ∧ ∃ w i u n a, s.Offers w ∧ decode w = .ok i ∧ u.routine = commandRoutine i ∧
      t.view = (s.accepted i u n a).view) := by
  obtain ⟨hr', -⟩ | ⟨-, hb, hv⟩ | ⟨-, hb, hv | ⟨w, ho, ⟨r, -, hv⟩ | ⟨i, u, hd, he, hv⟩⟩⟩ := step_view_cases h
  · exact absurd (hr.symm.trans hr') nofun
  · exact .inl ⟨hb, hv⟩
  · exact .inr (.inl ⟨hb, hv⟩)
  · exact .inr (.inr (.inl ⟨hb, w, r, ho, hv⟩))
  · obtain rfl | ⟨-, p, n, a, hp, rfl⟩ := exec_idle_next hb he
    · exact .inr (.inr (.inl ⟨hb, encode i, .notPowered, encode_of_decode hd ▸ ho, hv⟩))
    · exact .inr (.inr (.inr ⟨hb, w, i, p, n, a, ho, hd, hp, hv⟩))

/-- The routine of a sequencer's part. -/
def SeqView.routine (v : SeqView) : Routine := v.upc.routine

/-- BUSY of a sequencer's part. -/
def SeqView.busy (v : SeqView) : Bool := v.routine != .idle

theorem State.view_routine (s : State) : s.view.routine = s.routine := rfl
theorem State.view_busy (s : State) : s.view.busy = s.busy := rfl

/-- The frame of a cycle from `s`, of which `v` is what it makes of the sequencer's part. -/
structure SeqFrame (s : State) (v : SeqView) : Prop where
  lines : ∀ l, l ∉ routineLines s.routine → v.lines.get l = s.lines.get l
  stepcount : v.stepcount ≠ s.stepcount → s.AtOp (.advance .finish) ∨ s.AtOp (.home .finish)
  cmdLatch : v.cmdLatch ≠ s.cmdLatch → s.busy = false ∧ s.Offers v.cmdLatch
  shiftBuf : v.shiftBuf ≠ s.shiftBuf →
    v.shiftBuf = s.mask ∧ v.routine = .fire ∧ s.busy = false ∧ ∃ w, s.Offers w
  result : v.result ≠ s.result →
    (s.busy = true ∧ s.waitcnt = 0 ∧ v.busy = false) ∨ (s.busy = false ∧ v.busy = false ∧ ∃ w, s.Offers w)
  cfg : v.cfg = s.cfg
  quiet : s.busy = false → (¬∃ w, s.Offers w) →
    v.busy = false ∧ v.upc = s.upc ∧ v.pstate = s.pstate ∧ v.waitcnt = s.waitcnt ∧ v.acc = s.acc
  starts : s.busy = false → v.busy = true → ∃ w i, s.Offers w ∧ decode w = .ok i ∧ v.routine = commandRoutine i
  ends : s.busy = true → v.routine = s.routine ∨
    (v.busy = false ∧ (s.AtOp (.powerUp .finish) ∨ s.AtOp (.powerDown .finish) ∨ s.AtOp (.fire .finish) ∨
      s.AtOp (.advance .finish) ∨ s.AtOp (.home .finish)))

/-- The frame of a running routine's cycle. -/
theorem seqFrame_seqCycle {s : State} (hb : s.busy = true) : SeqFrame s (seqCycle s).view := by
  obtain ⟨hlatch, hshift, hstep⟩ := seqCycle_latch s
  have not_idle {P : Prop} (h : s.busy = false) : P := absurd (hb.symm.trans h) nofun
  exact {
    lines := seqCycle_lines s
    stepcount := hstep
    cmdLatch := fun h => absurd hlatch h
    shiftBuf := fun h => absurd hshift h
    result := fun h => by
      obtain he | ⟨-, hw, hidle, -⟩ := seqCycle_result s
      · exact absurd he h
      · exact .inl ⟨hb, hw, (State.busy_eq_false _).2 hidle⟩
    cfg := seqCycle_cfg s
    quiet := not_idle
    starts := not_idle
    ends := fun _ => seqCycle_routine s }

/-- The frame of an idle cycle without a command's acceptance, in which nothing changes but RESULT, and RESULT by a CMD write
only. -/
theorem seqFrame_idle {s : State} {v : SeqView} (hb : s.busy = false) (hv : v = { s.view with result := v.result })
    (hresult : v.result ≠ s.result → ∃ w, s.Offers w) : SeqFrame s v := by
  have hvb : v.busy = false := by rw [hv]; exact hb
  have not_busy {P : Prop} {b : Bool} (hf : b = false) (ht : b = true) : P := absurd (hf.symm.trans ht) nofun
  exact {
    lines := fun _ _ => by rw [hv]; rfl
    stepcount := fun h => absurd (by rw [hv]; rfl) h
    cmdLatch := fun h => absurd (by rw [hv]; rfl) h
    shiftBuf := fun h => absurd (by rw [hv]; rfl) h
    result := fun h => .inr ⟨hb, hvb, hresult h⟩
    cfg := by rw [hv]; rfl
    quiet := fun _ _ => ⟨hvb, by rw [hv]; exact ⟨rfl, rfl, rfl, rfl⟩⟩
    starts := fun _ => not_busy hvb
    ends := not_busy hb }

/-- The frame of a command's acceptance. -/
theorem seqFrame_accepted {s : State} {w : Word} {i : Instr} {u : Upc} {n : Nat} {a : Acc} (hb : s.busy = false)
    (ho : s.Offers w) (hd : decode w = .ok i) (hu : u.routine = commandRoutine i) :
    SeqFrame s (s.accepted i u n a).view where
  lines _ _ := rfl
  stepcount h := absurd rfl h
  cmdLatch _ := ⟨hb, show s.Offers (encode i) from encode_of_decode hd ▸ ho⟩
  shiftBuf h := by
    change acceptedShiftBuf s i ≠ s.shiftBuf at h
    change acceptedShiftBuf s i = s.mask ∧ u.routine = .fire ∧ _
    unfold acceptedShiftBuf at h ⊢
    split at h
    · rename_i hi
      exact ⟨if_pos hi, hu.trans hi, hb, w, ho⟩
    · exact absurd rfl h
  result h := absurd rfl h
  cfg := rfl
  quiet _ h := absurd ⟨w, ho⟩ h
  starts _ _ := ⟨w, i, ho, hd, hu⟩
  ends h := absurd (hb.symm.trans h) nofun

theorem step_frame {s t : State} (h : step s = .next t) (hr : s.input.rst = false) : SeqFrame s t.view := by
  obtain ⟨hb, hv⟩ | ⟨hb, hv⟩ | ⟨hb, w, r, ho, hv⟩ | ⟨hb, w, i, u, n, a, ho, hd, hu, hv⟩ := step_active_cases h hr
  all_goals rw [hv]
  · exact seqFrame_seqCycle hb
  · exact seqFrame_idle hb rfl (fun h => absurd rfl h)
  · exact seqFrame_idle hb rfl (fun _ => ⟨w, ho⟩)
  · exact seqFrame_accepted hb ho hd hu

/-- Settles O35: the frames of the four things a cycle without RST can be. -/
theorem cycleFrame : Obligations.CycleFrame := by
  intro s t h hr
  obtain ⟨hlines, hstepcount, hlatch, hshift, hresult, hcfg, hquiet, hstarts, hends⟩ := step_frame h hr
  exact ⟨hlines, hstepcount, hlatch, hshift, hresult, hcfg, hquiet, hstarts, hends⟩

/-! ## The reset state (rule R251) -/

/-- An idle block the host writes no command to stays idle, with its lines, or takes its reset value. -/
theorem step_idle_unoffered {s t : State} (hb : s.busy = false) (hl : s.lines = Lines.reset) (ho : ∀ w, ¬s.Offers w)
    (h : step s = .next t) : t.routine = .idle ∧ t.lines = Lines.reset := by
  have routine_idle {u : State} (hu : u.busy = false) : u.routine = .idle :=
    congrArg Upc.routine ((State.busy_eq_false u).1 hu)
  obtain ⟨-, rfl⟩ | ⟨hr, -⟩ := step_cases h
  · exact ⟨rfl, rfl⟩
  · have frame := step_frame h hr
    obtain ⟨hidle, -⟩ := frame.quiet hb (fun ⟨w, hw⟩ => ho w hw)
    refine ⟨routine_idle hidle, Lines.ext_get fun l => ?_⟩
    rw [← hl]
    exact frame.lines l (by rw [routine_idle hb]; exact List.not_mem_nil)

/-- Bits [3:0] of STATUS read 0 after reset, whatever the input levels above them. -/
theorem statusWord_resetWith (c : Config) (p : Pins) : ((State.resetWith c).statusWord p).extractLsb' 0 4 = 0 := by
  have low : ∀ endstop fault ready : Bool,
      (0#25 ++ BitVec.ofBool endstop ++ BitVec.ofBool fault ++ BitVec.ofBool ready ++ 0#1 ++ 0#1 ++ 0#2).extractLsb' 0 4
        = 0#4 := by decide
  exact low p.endstop p.fault p.ready

/-- Rule R20's reset column, read as LINES (rule R37). -/
theorem word_linesReset : Lines.reset.word = 0x0000009D := by decide

/-- Settles O1: every value is the reset state's own, STATUS and LINES read it, and with no CMD write the block stays idle. -/
theorem resetStateHoldsResetValues : Obligations.ResetStateHoldsResetValues := by
  intro c ins t s
  refine ⟨?lines, word_linesReset, statusWord_resetWith c, ?values⟩
  case lines => exact ⟨rfl, rfl, rfl, rfl, rfl, rfl, rfl, rfl, rfl, rfl, rfl⟩
  case values =>
    exact ⟨rfl, rfl, rfl, rfl, rfl, rfl, rfl, rfl, rfl, rfl, rfl, rfl, step_idle_unoffered rfl rfl⟩

end Sys2Proof.Machine
end

section
/-! SUPPORT. The bits of STATUS and LINES, the registers' offsets, and where each nozzle stands (spec/10_state.md rules R29, R31, R36,
R37, spec/41_serial_link.md rule R132). -/

namespace Sys2Proof.Machine

/-- The register at an offset in the window is that of its word (rules R29, R61). -/
theorem regAt_base_add (c : Config) {k : Nat} (h : k < 64) : regAt c (c.base + k) = some (regAtOffset k) := by
  unfold regAt
  rw [if_pos (by omega), Nat.add_sub_cancel_left]

/-- Settles O44: each offset's word index selects its register. -/
theorem registerOffsets : Obligations.RegisterOffsets := by
  intro c
  refine ⟨?_, ?_, ?_, ?_, ?_, ?_, ?_, ?_, ?_⟩
  all_goals exact regAt_base_add c (by decide)

/-! ## STATUS and LINES (rules R31, R37) -/

/-- Settles O45: STATUS is the fields of rule R31 side by side. -/
theorem statusFields : Obligations.StatusFields := by
  intro s p
  refine ⟨?pstate, ?busy, ?overrun, ?ready, ?fault, ?endstop, fun j hj => ?reserved⟩
  case pstate =>
    unfold State.statusWord
    rw [BitVec.extractLsb'_append_eq_of_add_le (by decide), BitVec.extractLsb'_eq_self]
    cases s.pstate <;> rfl
  case reserved =>
    unfold State.statusWord
    simp (disch := omega) only [BitVec.getLsbD_append, if_neg, BitVec.getLsbD_zero]
  case busy | overrun | ready | fault | endstop =>
    simp only [State.statusWord, BitVec.getLsbD_append]
    simp

/-- Settles O46: LINES is the eleven lines side by side, in rule R37's order. -/
theorem linesFields : Obligations.LinesFields := by
  intro l
  refine ⟨?_, ?_, ?_, ?_, ?_, ?_, ?_, ?_, ?_, ?_, ?_, fun j hj => ?reserved⟩
  case reserved =>
    unfold Lines.word
    simp (disch := omega) only [BitVec.getLsbD_append, if_neg, BitVec.getLsbD_zero]
  all_goals
    simp only [Lines.word, BitVec.getLsbD_append]
    simp

/-! ## The nozzles (rules R36, R41, R131, R132) -/

/-- The MASK registers by number (rule R36). -/
def State.maskReg (s : State) (k : Nat) : Word :=
  match k with
  | 0 => s.mask0
  | 1 => s.mask1
  | 2 => s.mask2
  | _ => s.mask3

/-- Bit `j` of the staging mask is a bit of MASK register `j div 32` (rule R41). -/
theorem getLsbD_mask (s : State) {j : Nat} (hj : j < 128) : s.mask.getLsbD j = (s.maskReg (j / 32)).getLsbD (j % 32) := by
  unfold State.mask
  obtain ⟨k, b, hb, rfl⟩ : ∃ k b, b < 32 ∧ j = 32 * k + b := ⟨j / 32, j % 32, by omega, by omega⟩
  have hk : k < 4 := by omega
  rw [show (32 * k + b) / 32 = k by omega, show (32 * k + b) % 32 = b by omega]
  simp only [BitVec.getLsbD_append]
  interval_cases k
  · rw [if_pos (by omega)]
    exact congrArg _ (by omega)
  · rw [if_neg (by omega), if_pos (by omega)]
    exact congrArg _ (by omega)
  · rw [if_neg (by omega), if_neg (by omega), if_pos (by omega)]
    exact congrArg _ (by omega)
  · rw [if_neg (by omega), if_neg (by omega), if_neg (by omega)]
    exact congrArg _ (by omega)

/-- Settles O47: a nozzle's bit is found in the register its number div 32 names, and the link's stream runs through a channel's 64
nozzles in order. -/
theorem nozzleBitMap : Obligations.NozzleBitMap := by
  intro s
  refine ⟨fun n hn => ?register, fun ch k hk => ?stream⟩
  case register =>
    unfold nozzleBit
    rw [getLsbD_mask s (by omega), show (8 * (n / 8) + (7 - n % 8)) / 32 = n / 32 by omega,
      show (8 * (n / 8) + (7 - n % 8)) % 32 = 8 * (n / 8 % 4) + 7 - n % 8 by omega]
    rfl
  case stream =>
    unfold streamBit nozzleBit
    congr 1
    cases ch <;> simp only [Channel.number] <;> omega

end Sys2Proof.Machine
end

section
/-! SUPPORT. A cycle from the host's side: what an access adds to the cycle without it (spec/20_memory.md rules R65, R66), and that
neither the staging mask of a running routine nor the accumulators of an idle block matter (spec/10_state.md rules R41, R44,
spec/20_memory.md rule R73). -/

namespace Sys2Proof.Machine

/-! ## A step, from its parts -/

/-- A cycle without RST, from the state the host's access leaves (rule R66). -/
theorem step_eq {s u : State} (ha : s.accessOk = true) (hr : s.input.rst = false) (hu : hostEffect s = .next u) :
    step s = .next (s.endCycle (if s.busy then seqCycle u else u)) := by
  unfold step clockCycle activeCycle
  rw [if_pos ha, if_neg (by simp [hr]), hu]

theorem step_eq_reset {s : State} (ha : s.accessOk = true) (hr : s.input.rst = true) : step s = .next s.resetCycle := by
  unfold step clockCycle
  rw [if_pos ha, if_pos hr]

/-- An access of 4 bytes has a meaning wherever its address lies (rules R60, R62). -/
theorem accessOk_of_sizeOk {s : State} (h : s.input.host.sizeOk = true) : s.accessOk = true := by
  unfold State.accessOk
  split
  · rfl
  · exact h

theorem hostEffect_read {s : State} {addr size : Nat} (hh : s.input.host = .read addr size) :
    hostEffect s = .next s := by
  unfold hostEffect
  rw [hh]

theorem hostEffect_write {s : State} {addr size : Nat} {v : Word} {r : Reg} (hh : s.input.host = .write addr size v)
    (hg : regAt s.cfg addr = some r) (hr : r ≠ .cmd) : hostEffect s = .next (s.writeReg r v) := by
  unfold hostEffect
  rw [hh]
  simp only [hg]

/-- The host's access is nothing to the block, a CMD write or a write of another register, and which of them depends on the access
and on BASE only. -/
theorem hostEffect_forms (s : State) :
    (∀ s' : State, s'.input.host = s.input.host → s'.cfg = s.cfg → hostEffect s' = .next s') ∨
    (∃ w, ∀ s' : State, s'.input.host = s.input.host → s'.cfg = s.cfg → hostEffect s' = cmdWrite w s') ∨
    ∃ r v, ∀ s' : State, s'.input.host = s.input.host → s'.cfg = s.cfg → hostEffect s' = .next (s'.writeReg r v) := by
  unfold hostEffect
  cases s.input.host with
  | quiet => exact .inl fun s' hh _ => by rw [hh]
  | read addr size => exact .inl fun s' hh _ => by rw [hh]
  | write addr size v =>
    cases hg : regAt s.cfg addr with
    | none => exact .inl fun s' hh hc => by rw [hh]; simp only [hc, hg]
    | some r =>
      by_cases hr : r = .cmd
      · exact .inr (.inl ⟨v, fun s' hh hc => by rw [hh]; simp only [hc, hg, hr]⟩)
      · exact .inr (.inr ⟨r, v, fun s' hh hc => by rw [hh]; simp only [hc, hg]⟩)

/-! ## What the sequencer does not own (rule R66(4), (5)) -/

/-- The sequencer's part of `t`, with everything else as in `r`. -/
def State.withRest (t r : State) : State :=
  { t with
    overrun := r.overrun
    mask0 := r.mask0
    mask1 := r.mask1
    mask2 := r.mask2
    mask3 := r.mask3
    inputs := r.inputs
    cycle := r.cycle
    readData := r.readData }

/-- The sequencer's cycle carries the rest of the state through. -/
theorem seqCycle_eq_withRest {s u : State} (hv : u.view = s.view) (hp : u.pins = s.pins) :
    seqCycle u = (seqCycle s).withRest u := seqCycle_congr hv hp

theorem seqCycle_withRest_self (s : State) : (seqCycle s).withRest s = seqCycle s :=
  (seqCycle_eq_withRest rfl rfl).symm

/-- What a write of a register leaves in each register (rules R32, R36, R65). -/
theorem writeReg_eq (s : State) (r : Reg) (v : Word) :
    s.writeReg r v =
      { s with
        overrun := if r = .status ∧ v.getLsbD 3 = true then false else s.overrun
        mask0 := if r = .mask0 then v else s.mask0
        mask1 := if r = .mask1 then v else s.mask1
        mask2 := if r = .mask2 then v else s.mask2
        mask3 := if r = .mask3 then v else s.mask3 } := by
  cases r with
  | status =>
    unfold State.writeReg
    cases v.getLsbD 3 <;> rfl
  | cmd | result | stepcount | mask0 | mask1 | mask2 | mask3 | lines | unmapped => rfl

theorem writeReg_input (s : State) (r : Reg) (v : Word) : (s.writeReg r v).input = s.input := by
  rw [writeReg_eq]
  rfl

/-- A write of a register touches nothing that is the cycle's own. -/
theorem writeReg_endCycle (s t : State) (r : Reg) (v : Word) :
    s.endCycle (t.writeReg r v) = (s.endCycle t).writeReg r v := by
  rw [writeReg_eq, writeReg_eq]
  rfl

/-- A write of a register and the sequencer's cycle may come in either order (rule R66(5)). -/
theorem seqCycle_writeReg (s : State) (r : Reg) (v : Word) : seqCycle (s.writeReg r v) = (seqCycle s).writeReg r v := by
  rw [seqCycle_eq_withRest (view_writeReg s r v) (congrArg CycleInput.pins (writeReg_input s r v)),
    ← seqCycle_withRest_self s, writeReg_eq, writeReg_eq]
  rfl

/-! ## An access against the quiet cycle (rules R65, R66) -/

/-- The block's registers at the end of a cycle without RST in which the host does nothing. -/
def State.quietEnd (s : State) : State := if s.busy then seqCycle s else s

/-- The state at the end of such a cycle. -/
def State.quietCycle (s : State) : State := { s.endCycle s.quietEnd with readData := none }

theorem step_quiet {s : State} (hr : s.input.rst = false) : step (s.withHost .quiet) = .next s.quietCycle := by
  rw [step_eq (s := s.withHost .quiet) (u := s.withHost .quiet) rfl hr rfl]
  change Host.Outcome.next ((s.withHost .quiet).endCycle (if s.busy then _ else _)) = _
  unfold State.quietCycle State.quietEnd
  split
  · rw [seqCycle_eq_withRest (s := s) (u := s.withHost .quiet) rfl rfl, ← seqCycle_withRest_self s]
    rfl
  · rfl

/-- Settles O41: a read changes nothing, so the cycle is the quiet one with the read's data. -/
theorem hostReadReturnsTheRegister : Obligations.HostReadReturnsTheRegister := by
  intro s addr r hr hh hg
  refine ⟨_, step_eq (accessOk_of_sizeOk (by rw [hh]; rfl)) hr (hostEffect_read hh), ?data, step_quiet hr⟩
  rw [State.endCycle_readData, State.hostReadData, hh]
  simp only [hg, hr]
  cases r <;> rfl

/-- A write's cycle is the quiet one with the register written. -/
theorem step_write {s : State} {addr : Nat} {v : Word} {r : Reg} (hr : s.input.rst = false)
    (hh : s.input.host = .write addr 4 v) (hg : regAt s.cfg addr = some r) (hne : r ≠ .cmd) :
    step s = .next (s.quietCycle.writeReg r v) := by
  have hend : (if s.busy then seqCycle (s.writeReg r v) else s.writeReg r v) = s.quietEnd.writeReg r v := by
    unfold State.quietEnd
    split
    · exact seqCycle_writeReg s r v
    · rfl
  have hquiet : s.quietCycle = s.endCycle s.quietEnd := by
    unfold State.quietCycle State.endCycle State.hostReadData
    rw [hh]
  rw [step_eq (accessOk_of_sizeOk (by rw [hh]; rfl)) hr (hostEffect_write hh hg hne), hend, hquiet, writeReg_endCycle]

/-- Settles O42: the write commutes with the sequencer's cycle, and `State.writeReg` is rule R65's table. -/
theorem hostWriteSetsItsRegisterOnly : Obligations.HostWriteSetsItsRegisterOnly := by
  intro s addr v r hr hh hg hne
  refine ⟨s.quietCycle, step_quiet hr, (step_write hr hh hg hne).trans (congrArg _ ?_)⟩
  rw [writeReg_eq]
  cases r with
  | status => cases v.getLsbD 3 <;> rfl
  | cmd | result | stepcount | mask0 | mask1 | mask2 | mask3 | lines | unmapped => rfl

/-! ## The staging mask of a running routine (rules R41, R73) -/

/-- The state with other MASK registers. -/
def State.withMasks (m0 m1 m2 m3 : Word) (s : State) : State :=
  { s with mask0 := m0, mask1 := m1, mask2 := m2, mask3 := m3 }

theorem writeReg_withMasks (s : State) (r : Reg) (v m0 m1 m2 m3 : Word) :
    ∃ n0 n1 n2 n3, (s.withMasks m0 m1 m2 m3).writeReg r v = (s.writeReg r v).withMasks n0 n1 n2 n3 := by
  simp only [writeReg_eq]
  exact ⟨_, _, _, _, rfl⟩

theorem seqCycle_withMasks (s : State) (m0 m1 m2 m3 : Word) :
    seqCycle (s.withMasks m0 m1 m2 m3) = (seqCycle s).withMasks m0 m1 m2 m3 := by
  rw [seqCycle_eq_withRest (s := s) (u := s.withMasks m0 m1 m2 m3) rfl rfl, ← seqCycle_withRest_self s]
  rfl

/-- While a routine runs, the host's access does the same whatever the MASK registers hold: no snapshot is taken (rule R41). -/
theorem hostEffect_withMasks {s u : State} (m0 m1 m2 m3 : Word) (hb : s.busy = true) (h : hostEffect s = .next u) :
    ∃ n0 n1 n2 n3, hostEffect (s.withMasks m0 m1 m2 m3) = .next (u.withMasks n0 n1 n2 n3) := by
  obtain hf | ⟨w, hf⟩ | ⟨r, v, hf⟩ := hostEffect_forms s
  · cases h.symm.trans (hf s rfl rfl)
    exact ⟨m0, m1, m2, m3, hf _ rfl rfl⟩
  · have overrun {s' : State} (hb' : s'.busy = true) : cmdWrite w s' = .next s'.overrunWrite := if_pos hb'
    cases h.symm.trans ((hf s rfl rfl).trans (overrun hb))
    exact ⟨m0, m1, m2, m3, (hf (s.withMasks m0 m1 m2 m3) rfl rfl).trans (overrun hb)⟩
  · cases h.symm.trans (hf s rfl rfl)
    obtain ⟨n0, n1, n2, n3, hn⟩ := writeReg_withMasks s r v m0 m1 m2 m3
    exact ⟨n0, n1, n2, n3, hn ▸ hf _ rfl rfl⟩

/-- Settles O39: neither the sequencer nor an access while busy reads a MASK register, but a host read. -/
theorem maskRegistersDoNotAffectARunningRoutine : Obligations.MaskRegistersDoNotAffectARunningRoutine := by
  intro s t m0 m1 m2 m3 hb h
  have ha : s.accessOk = true := (step_next_iff s).1 ⟨t, h⟩
  obtain ⟨hr, rfl⟩ | ⟨hr, u, hu, rfl⟩ := step_cases h
  · exact ⟨_, step_eq_reset (s := s.withMasks m0 m1 m2 m3) ha hr, rfl⟩
  · obtain ⟨n0, n1, n2, n3, hu'⟩ := hostEffect_withMasks m0 m1 m2 m3 hb hu
    refine ⟨_, step_eq (s := s.withMasks m0 m1 m2 m3) ha hr hu', ?_⟩
    rw [if_pos hb, if_pos (show (s.withMasks m0 m1 m2 m3).busy = true from hb), seqCycle_withMasks]
    rfl

/-! ## The accumulators of an idle block (rule R44) -/

/-- While idle, the host's access does the same whatever the accumulators hold: an accepted command overwrites them, and in every
other case they stay as they were. -/
theorem hostEffect_withAcc {s u : State} (a : Acc) (hb : s.busy = false) (h : hostEffect s = .next u) :
    hostEffect (s.withAcc a) = .next u ∨ (u.busy = false ∧ hostEffect (s.withAcc a) = .next (u.withAcc a)) := by
  obtain hf | ⟨w, hf⟩ | ⟨r, v, hf⟩ := hostEffect_forms s
  · cases h.symm.trans (hf s rfl rfl)
    exact .inr ⟨hb, hf _ rfl rfl⟩
  · have cmd (b : Acc) : hostEffect (s.withAcc b)
        = match decode w with
          | .error r => .next ((s.withAcc b).rejectWith w r)
          | .ok i => exec i (s.withAcc b) := (hf (s.withAcc b) rfl rfl).trans (if_neg (by simp [hb]))
    have hs := h.symm.trans (cmd s.acc)
    rw [cmd a]
    cases hd : decode w with
    | error r =>
      simp only [hd] at hs
      cases hs
      exact .inr ⟨hb, rfl⟩
    | ok i =>
      simp only [hd] at hs
      obtain ⟨-, -, he⟩ | ⟨-, p, n, b, -, he⟩ := exec_idle i hb
      · cases hs.trans (he s.acc)
        exact .inr ⟨hb, he a⟩
      · cases hs.trans (he s.acc)
        exact .inl (he a)
  · cases h.symm.trans (hf s rfl rfl)
    refine .inr ⟨hb ▸ State.busy_congr _ (congrArg SeqView.upc (view_writeReg s r v)), ?_⟩
    rw [hf (s.withAcc a) rfl rfl]
    rw [writeReg_eq, writeReg_eq]
    rfl

/-- Settles O40: an idle block reads no accumulator, and a command's acceptance sets them all. -/
theorem idleAccumulatorsAreUnobservable : Obligations.IdleAccumulatorsAreUnobservable := by
  intro s t a hb h
  have ha : s.accessOk = true := (step_next_iff s).1 ⟨t, h⟩
  have hn : ¬s.busy = true := by simp [hb]
  obtain ⟨hr, rfl⟩ | ⟨hr, u, hu, rfl⟩ := step_cases h
  · exact ⟨_, step_eq_reset (s := s.withAcc a) ha hr, rfl, fun _ => rfl⟩
  · rw [if_neg hn]
    obtain hu' | ⟨hidle, hu'⟩ := hostEffect_withAcc a hb hu
    all_goals
      refine ⟨_, step_eq (s := s.withAcc a) ha hr hu', ?_⟩
      rw [if_neg (show ¬(s.withAcc a).busy = true from hn)]
    · exact ⟨rfl, fun _ => rfl⟩
    · exact ⟨rfl, fun hbusy => absurd (hidle.symm.trans hbusy) nofun⟩

end Sys2Proof.Machine
end

section
/-! SUPPORT. Which accesses reach the block, and which of those have a meaning (spec/20_memory.md rules R60 to R63). -/

namespace Sys2Proof.Machine

/-! ## Accesses of a wrong size (rule R62, entry S9) -/

theorem step_refused {s : State} (h : s.accessOk = false) : step s = .refused .accessSize := by
  unfold step clockCycle
  rw [if_neg (by simp [h])]

/-- The accesses without a meaning are the reads and writes in the window of a size other than 4 bytes. -/
theorem accessOk_eq_false_iff (s : State) :
    s.accessOk = false ↔ ∃ addr size r, size ≠ 4 ∧ regAt s.cfg addr = some r ∧
      (s.input.host = .read addr size ∨ ∃ v, s.input.host = .write addr size v) := by
  unfold State.accessOk
  cases s.input.host with
  | quiet => simp [State.accessReg]
  | read addr size => cases hg : regAt s.cfg addr <;> simp [State.accessReg, HostAccess.sizeOk, hg]
  | write addr size v => cases hg : regAt s.cfg addr <;> simp [State.accessReg, HostAccess.sizeOk, hg]

/-- Settles O3: a step asks of the cycle only that its access have a meaning. -/
theorem onlyAWrongSizeStopsAStep : Obligations.OnlyAWrongSizeStopsAStep := by
  refine ⟨fun s addr size r hh hg hne => ?read, fun s addr size v r hh hg hne => ?write, fun s => ?only⟩
  case read => exact step_refused ((accessOk_eq_false_iff s).2 ⟨addr, size, r, hne, hg, .inl hh⟩)
  case write => exact step_refused ((accessOk_eq_false_iff s).2 ⟨addr, size, r, hne, hg, .inr ⟨v, hh⟩⟩)
  case only =>
    cases ha : s.accessOk with
    | true => exact .inl ((step_next_iff s).2 ha)
    | false => exact .inr ⟨step_refused ha, (accessOk_eq_false_iff s).1 ha⟩

/-! ## Accesses outside the window (rule R60) -/

section
variable {s : State}

theorem accessOk_of_outside (h : s.accessReg s.input.host = none) : s.accessOk = true := by
  unfold State.accessOk
  rw [h]

theorem hostEffect_of_outside (h : s.accessReg s.input.host = none) : hostEffect s = .next s := by
  unfold hostEffect
  cases hh : s.input.host with
  | quiet | read addr size => rfl
  | write addr size v =>
    have hg : regAt s.cfg addr = none := by rwa [hh] at h
    simp only [hg]

theorem hostReadData_of_outside (h : s.accessReg s.input.host = none) : s.hostReadData = none := by
  unfold State.hostReadData
  cases hh : s.input.host with
  | quiet | write addr size v => rfl
  | read addr size =>
    have hg : regAt s.cfg addr = none := by rwa [hh] at h
    simp only [hg]

/-- A cycle whose access does not reach the block is the cycle without it, with or without RST. -/
theorem step_of_outside (h : s.accessReg s.input.host = none) : step s = step (s.withHost .quiet) := by
  cases hr : s.input.rst with
  | true =>
    rw [step_eq_reset (accessOk_of_outside h) hr, step_eq_reset (s := s.withHost .quiet) rfl hr]
    unfold State.resetCycle State.endCycle
    rw [hostReadData_of_outside h]
    rfl
  | false =>
    rw [step_eq (accessOk_of_outside h) hr (hostEffect_of_outside h), step_quiet hr]
    unfold State.quietCycle State.quietEnd State.endCycle
    rw [hostReadData_of_outside h]

end

/-! ## The window's address decode (rules R60, R61, R63) -/

/-- Every byte of a word of the window selects the same register: offset[1:0] is not decoded. -/
theorem regAt_word (c : Config) {k b : Nat} (hk : k < 16) (hb : b < 4) :
    regAt c (c.base + 4 * k + b) = some (regAtOffset (4 * k)) := by
  rw [Nat.add_assoc, regAt_base_add c (by omega)]
  unfold regAtOffset
  rw [show (4 * k + b) / 4 = 4 * k / 4 by omega]

theorem regAt_eq_none_iff (c : Config) (addr : Nat) : regAt c addr = none ↔ addr < c.base ∨ c.base + 64 ≤ addr := by
  unfold regAt
  rw [ite_eq_right_iff]
  constructor
  · intro h
    by_contra hin
    cases h (by omega)
  · intro hout hin
    omega

/-- Words 9 to 15 of the window hold no register (rule R61). -/
theorem regAtOffset_unmapped {k : Nat} (h9 : 9 ≤ k) : regAtOffset (4 * k) = .unmapped := by
  unfold regAtOffset
  rw [Nat.mul_div_cancel_left k (by decide)]
  split
  case h_10 => rfl
  all_goals omega

/-- Settles O4: such an access does nothing to the block and returns nothing, and the decode looks at offset[5:2] only. -/
theorem accessOutsideTheWindowDoesNotReachTheBlock : Obligations.AccessOutsideTheWindowDoesNotReachTheBlock := by
  refine ⟨fun s => step_of_outside, regAt_eq_none_iff, fun c k b hk hb => ?word, fun c k h9 hk => ?unmapped⟩
  case word => exact (regAt_word c hk hb).trans (regAt_word c hk (b := 0) (by decide)).symm
  case unmapped => exact (regAt_word c hk (b := 0) (by decide)).trans (congrArg some (regAtOffset_unmapped h9))

end Sys2Proof.Machine
end

section
/-! SUPPORT. The registers that are the host's, OVERRUN and the staging mask: what a cycle makes of them, and that the sequencer's
cycle leaves them to the host (spec/10_state.md rules R36, R41, spec/20_memory.md rules R65, R66). -/

namespace Sys2Proof.Machine

/-- An overrun and the sequencer's cycle may come in either order (rule R66(5)). -/
theorem seqCycle_overrunWrite (s : State) : seqCycle s.overrunWrite = (seqCycle s).overrunWrite := by
  rw [seqCycle_eq_withRest (s := s) (u := s.overrunWrite) rfl rfl, ← seqCycle_withRest_self s]
  rfl

/-- Settles O38: the micro-op neither reads nor writes OVERRUN and the staging mask, all that these writes change. -/
theorem hostWriteAndMicroOpCommute : Obligations.HostWriteAndMicroOpCommute :=
  ⟨seqCycle_writeReg, seqCycle_overrunWrite⟩

/-! ## What a cycle makes of them (rules R65, R66(5)) -/

/-- MASK0 to MASK3 (rule R36). -/
def maskRegs : List Reg := [.mask0, .mask1, .mask2, .mask3]

/-- What the MASK registers hold. -/
def State.masks (s : State) : List Word := maskRegs.map s.readReg

theorem masks_eq_iff {s t : State} : t.masks = s.masks ↔ ∀ r ∈ maskRegs, t.readReg r = s.readReg r := List.map_inj_left

theorem masks_seqCycle (s : State) : (seqCycle s).masks = s.masks := by
  obtain ⟨-, -, h0, h1, h2, h3, -⟩ := seqCycle_rest s
  simp [State.masks, maskRegs, State.readReg, h0, h1, h2, h3]

/-- A CMD write sets OVERRUN while busy, and while idle leaves it; it writes no MASK register (rules R107, R109, R221). -/
theorem cmdWrite_host {s u : State} {w : Word} (h : cmdWrite w s = .next u) :
    u.overrun = (s.busy || s.overrun) ∧ u.masks = s.masks := by
  obtain ⟨hb, rfl⟩ | ⟨hb, r, -, rfl⟩ | ⟨hb, i, -, he⟩ := cmdWrite_cases h
  · exact ⟨by rw [hb]; rfl, rfl⟩
  · exact ⟨by rw [hb]; rfl, rfl⟩
  · rw [hb]
    obtain ⟨rfl, -⟩ | ⟨p, m, v, n, a, rfl, -⟩ := exec_idle_cases hb he <;> exact ⟨rfl, rfl⟩

/-- What a cycle without RST makes of OVERRUN and the staging mask, by what the host writes. -/
theorem step_host_cases {s t : State} (h : step s = .next t) (hr : s.input.rst = false) :
    (t.overrun = s.overrun ∧ t.masks = s.masks) ∨
    (∃ w, s.Offers w ∧ t.overrun = (s.busy || s.overrun) ∧ t.masks = s.masks) ∨
    ∃ addr r v, s.input.host = .write addr 4 v ∧ regAt s.cfg addr = some r ∧
      t.overrun = (s.writeReg r v).overrun ∧ t.masks = (s.writeReg r v).masks := by
  obtain ⟨hr', -⟩ | ⟨-, u, hu, rfl⟩ := step_cases h
  · exact absurd (hr.symm.trans hr') nofun
  · have hover : (s.endCycle (if s.busy then seqCycle u else u)).overrun = u.overrun := by
      split
      · exact (seqCycle_rest u).2.1
      · rfl
    have hmasks : (s.endCycle (if s.busy then seqCycle u else u)).masks = u.masks := by
      split
      · exact masks_seqCycle u
      · rfl
    rw [hover, hmasks]
    obtain ⟨rfl, -⟩ | ⟨w, ho, hw⟩ | ⟨addr, r, v, -, hh, hg, rfl⟩ :=
      hostEffect_ok_cases ((step_next_iff s).1 ⟨_, h⟩) hr hu
    · exact .inl ⟨rfl, rfl⟩
    · exact .inr (.inl ⟨w, ho, cmdWrite_host hw⟩)
    · exact .inr (.inr ⟨addr, r, v, hh, hg, rfl, rfl⟩)

/-! ## The MASK registers (rule R36) -/

theorem readReg_writeReg_mask {r : Reg} (hm : r ∈ maskRegs) (s : State) (v : Word) : (s.writeReg r v).readReg r = v := by
  revert r
  simp [maskRegs, State.readReg, State.writeReg]

theorem readReg_writeReg_of_ne {r q : Reg} (hm : q ∈ maskRegs) (hne : r ≠ q) (s : State) (v : Word) :
    (s.writeReg r v).readReg q = s.readReg q := by
  revert q
  rw [writeReg_eq]
  simp +contextual [maskRegs, State.readReg]

section
variable {s t : State} {r : Reg} (hm : r ∈ maskRegs) (h : step s = .next t) (hr : s.input.rst = false)
include hm h hr

/-- A cycle in which the host writes a MASK register. -/
theorem step_mask_written (addr : Nat) (v : Word) (hh : s.input.host = .write addr 4 v)
    (hg : regAt s.cfg addr = some r) : t.readReg r = v := by
  cases h.symm.trans (step_write hr hh hg (by rintro rfl; exact absurd hm (by decide)))
  exact readReg_writeReg_mask hm _ v

/-- A cycle in which it does not. -/
theorem step_mask_kept (hno : ¬∃ addr v, s.input.host = .write addr 4 v ∧ regAt s.cfg addr = some r) :
    t.readReg r = s.readReg r := by
  obtain ⟨-, hs⟩ | ⟨w, -, -, hs⟩ | ⟨addr, q, v, hh, hg, -, hs⟩ := step_host_cases h hr
  · exact masks_eq_iff.1 hs r hm
  · exact masks_eq_iff.1 hs r hm
  · have hne : q ≠ r := by
      rintro rfl
      exact hno ⟨addr, v, hh, hg⟩
    exact (masks_eq_iff.1 hs r hm).trans (readReg_writeReg_of_ne hm hne s v)

end

/-! ## OVERRUN (rules R32, R109) -/

/-- The two writes that change OVERRUN. -/
theorem step_overrun_changed {s t : State} (h : step s = .next t) (hr : s.input.rst = false)
    (hne : t.overrun ≠ s.overrun) :
    (t.overrun = true ∧ s.busy = true ∧ ∃ w, s.Offers w) ∨
    (t.overrun = false ∧ ∃ addr v, s.input.host = .write addr 4 v ∧ regAt s.cfg addr = some .status ∧
      v.getLsbD 3 = true) := by
  obtain ⟨ht, -⟩ | ⟨w, ho, ht, -⟩ | ⟨addr, r, v, hh, hg, ht, -⟩ := step_host_cases h hr
  · exact absurd ht hne
  · cases hb : s.busy with
    | true => exact .inl ⟨by rw [ht, hb]; rfl, rfl, w, ho⟩
    | false => exact absurd (by rw [ht, hb]; rfl) hne
  · rw [writeReg_eq] at ht
    change t.overrun = (if r = .status ∧ v.getLsbD 3 = true then false else s.overrun) at ht
    split at ht
    · obtain ⟨rfl, hv3⟩ := ‹r = .status ∧ v.getLsbD 3 = true›
      exact .inr ⟨ht, addr, v, hh, hg, hv3⟩
    · exact absurd ht hne

/-- Settles O36: the cycle's host write is a MASK, CMD or STATUS write, or leaves these registers, and the micro-op never writes them. -/
theorem onlyTheHostWritesMaskAndOverrun : Obligations.OnlyTheHostWritesMaskAndOverrun := by
  intro s t h hr
  have written {r : Reg} (hm : r ∈ maskRegs) := step_mask_written hm h hr
  have kept {r : Reg} (hm : r ∈ maskRegs) := step_mask_kept hm h hr
  exact ⟨written (r := .mask0) (by decide), written (r := .mask1) (by decide), written (r := .mask2) (by decide),
    written (r := .mask3) (by decide), kept (r := .mask0) (by decide), kept (r := .mask1) (by decide),
    kept (r := .mask2) (by decide), kept (r := .mask3) (by decide), step_overrun_changed h hr⟩

end Sys2Proof.Machine
end

section
/-! SUPPORT. The decoder by opcode, and its agreement with the encoder in both directions (spec/30_encoding.md rules R80 to R88). -/

namespace Sys2Proof

/-! ## The decoder by opcode (rule R88) -/

/-- The command a FIRE word with its reserved bits 0 stands for, by its TIMEOUT and WAIT_MODE (rules R82, R88). -/
def fireCommand (timeout : Nat) (waitMode : BitVec 2) : Except Reject Instr :=
  match waitMode.toNat with
  | 0 => .ok (.fireNone timeout)
  | 1 => .ok (.fireHigh timeout)
  | 2 => .ok (.fireLow timeout)
  | _ => .error .reservedField

theorem opcField_cases (w : Word) :
    (opcField w = 0 ∨ 6 ≤ opcField w) ∨ opcField w = 1 ∨ opcField w = 2 ∨ opcField w = 3 ∨ opcField w = 4 ∨
      opcField w = 5 := by
  generalize opcField w = o
  revert o
  decide

theorem waitModeField_cases (w : Word) :
    waitModeField w = 0 ∨ waitModeField w = 1 ∨ waitModeField w = 2 ∨ waitModeField w = 3 := by
  generalize waitModeField w = m
  revert m
  decide

section
variable {w : Word}

theorem decode_illegal (ho : opcField w = 0 ∨ 6 ≤ opcField w) : decode w = .error .illegalOpcode := by
  unfold decode
  split
  case h_6 => rfl
  all_goals
    rw [opcField_eq ‹_›] at ho
    exact absurd ho (by decide)

theorem decode_opc1 (ho : opcField w = 1) :
    decode w = if w.extractLsb' 4 28 ≠ 0 then .error .reservedField else .ok .powerUp := by
  unfold decode
  rw [ho]
  rfl

theorem decode_opc2 (ho : opcField w = 2) :
    decode w = if w.extractLsb' 4 28 ≠ 0 then .error .reservedField else .ok .powerDown := by
  unfold decode
  rw [ho]
  rfl

theorem decode_opc3 (ho : opcField w = 3) :
    decode w = if w.extractLsb' 6 10 ≠ 0 then .error .reservedField
      else fireCommand (timeoutField w).toNat (waitModeField w) := by
  unfold decode
  rw [ho]
  rfl

theorem decode_opc4 (ho : opcField w = 4) :
    decode w = if w.extractLsb' 5 3 ≠ 0 then .error .reservedField
      else .ok (.advance (stepsField w).toInt (keepField w)) := by
  unfold decode
  rw [ho]
  rfl

theorem decode_opc5 (ho : opcField w = 5) :
    decode w = if w.extractLsb' 5 27 ≠ 0 then .error .reservedField else .ok (.home (keepField w)) := by
  unfold decode
  rw [ho]
  rfl

end

/-! ## Decoding an encoded command (rule R90) -/

theorem decode_layoutF {n : Nat} (h : timeoutOk n = true) (m : BitVec 2) :
    decode (layoutF (BitVec.ofNat 16 n) m) = fireCommand n m := by
  rw [decode_opc3 (opcField_layoutF _ m), if_neg (not_not.2 (reserved_layoutF _ m)), timeoutField_layoutF,
    waitModeField_layoutF, toNat_timeout h]

theorem decode_layoutM {n : Int} (h : stepsOk n = true) (k : Bool) :
    decode (layoutM (BitVec.ofInt 24 n) k) = .ok (.advance n k) := by
  rw [decode_opc4 (opcField_layoutM _ k), if_neg (not_not.2 (reserved_layoutM _ k)), stepsField_layoutM,
    keepField_layoutM, toInt_steps h]

theorem decode_layoutH (k : Bool) : decode (layoutH k) = .ok (.home k) := by
  rw [decode_opc5 (opcField_layoutH k), if_neg (not_not.2 (reserved_layoutH k)), keepField_layoutH]

/-- Settles O7: in each layout the decoder reads back the fields the encoder wrote, and a field holds every operand in its range. -/
theorem decodingAnEncodedCommandGivesItBack : Obligations.DecodingAnEncodedCommandGivesItBack := by
  intro i h
  cases i with
  | powerUp | powerDown => rfl
  | fireNone n => exact decode_layoutF h 0
  | fireHigh n => exact decode_layoutF h 1
  | fireLow n => exact decode_layoutF h 2
  | advance n k => exact decode_layoutM h k
  | home k => exact decode_layoutH k

/-! ## Encoding a decoded word (rules R80 to R88) -/

theorem timeoutOk_toNat (t : BitVec 16) : timeoutOk t.toNat = true :=
  decide_eq_true (Nat.le_of_lt_succ t.isLt)

theorem stepsOk_toInt (t : BitVec 24) : stepsOk t.toInt = true := by
  have hlo := BitVec.le_toInt t
  have hhi := BitVec.toInt_lt (x := t)
  simp only [stepsOk, Bool.and_eq_true, decide_eq_true_eq]
  omega

theorem fireCommand_wf {n : Nat} {m : BitVec 2} {i : Instr} (hn : timeoutOk n = true) (h : fireCommand n m = .ok i) :
    i.wf = true := by
  unfold fireCommand at h
  split at h <;> cases h <;> exact hn

/-- What a field holds lies in its range, so every decoded command is well-formed. -/
theorem wf_of_decode {w : Word} {i : Instr} (h : decode w = .ok i) : i.wf = true := by
  obtain ho | ho | ho | ho | ho | ho := opcField_cases w
  · rw [decode_illegal ho] at h
    cases h
  · rw [decode_opc1 ho] at h
    split at h <;> cases h
    rfl
  · rw [decode_opc2 ho] at h
    split at h <;> cases h
    rfl
  · rw [decode_opc3 ho] at h
    split at h
    · cases h
    · exact fireCommand_wf (timeoutOk_toNat _) h
  · rw [decode_opc4 ho] at h
    split at h <;> cases h
    exact stepsOk_toInt _
  · rw [decode_opc5 ho] at h
    split at h <;> cases h
    rfl

/-- Settles O8: operands read from fields are in range, and the decoder drops no bit. -/
theorem encodingADecodedWordGivesItBack : Obligations.EncodingADecodedWordGivesItBack :=
  fun _ _ h => ⟨wf_of_decode h, encode_of_decode h⟩

/-! ## The rejected words (rule R87) -/

/-- A field of bits [m:a] is not 0 exactly when one of these bits is set. -/
theorem field_ne_zero_iff (w : Word) {a n m : Nat} (hm : a + n = m + 1) :
    w.extractLsb' a n ≠ 0 ↔ ∃ j, a ≤ j ∧ j ≤ m ∧ w.getLsbD j = true := by
  constructor
  · intro h
    by_contra hno
    refine h (BitVec.eq_of_getLsbD_eq fun i hi => ?_)
    rw [BitVec.getLsbD_extractLsb', BitVec.ofNat_eq_ofNat, BitVec.getLsbD_zero, Bool.and_eq_false_imp]
    exact fun _ => Bool.eq_false_iff.2 fun hw => hno ⟨a + i, by omega, by omega, hw⟩
  · rintro ⟨j, haj, hjm, hj⟩ h
    have hz : (w.extractLsb' a n).getLsbD (j - a) = false := by rw [h, BitVec.ofNat_eq_ofNat, BitVec.getLsbD_zero]
    rw [BitVec.getLsbD_extractLsb', Nat.add_sub_cancel' haj, hj, Bool.and_true, decide_eq_false_iff_not] at hz
    omega

/-- Settles O9: by opcode, the reserved field of its layout decides, for FIRE then WAIT_MODE. -/
theorem illegalAndReservedWordsAreRejected : Obligations.IllegalAndReservedWordsAreRejected := by
  intro w
  rw [← field_ne_zero_iff w (n := 28) rfl, ← field_ne_zero_iff w (n := 10) rfl, ← field_ne_zero_iff w (n := 3) rfl,
    ← field_ne_zero_iff w (n := 27) rfl]
  obtain ho | ho | ho | ho | ho | ho := opcField_cases w
  · rw [decode_illegal ho]
    refine ⟨iff_of_true rfl ho, iff_of_false nofun ?_, nofun⟩
    rintro (⟨h | h, -⟩ | ⟨h, -⟩ | ⟨h, -⟩ | ⟨h, -⟩)
    all_goals
      rw [h] at ho
      exact absurd ho (by decide)
  · by_cases hr : w.extractLsb' 4 28 = 0#28 <;> simp [decode_opc1 ho, ho, hr]
  · by_cases hr : w.extractLsb' 4 28 = 0#28 <;> simp [decode_opc2 ho, ho, hr]
  · by_cases hr : w.extractLsb' 6 10 = 0#10
    · obtain hm | hm | hm | hm := waitModeField_cases w <;> simp [decode_opc3 ho, ho, hr, hm, fireCommand]
    · simp [decode_opc3 ho, ho, hr]
  · by_cases hr : w.extractLsb' 5 3 = 0#3 <;> simp [decode_opc4 ho, ho, hr]
  · by_cases hr : w.extractLsb' 5 27 = 0#27 <;> simp [decode_opc5 ho, ho, hr]

/-! ## The rows' match and mask (rule R89) -/

theorem and_layoutF (t : BitVec 16) (m : BitVec 2) : layoutF t m &&& 0x0000FFFF = layoutF 0 m := by
  change t ++ 0#10 ++ m ++ 3#4 &&& 0#16 ++ BitVec.allOnes 10 ++ BitVec.allOnes 2 ++ BitVec.allOnes 4 = _
  simp only [BitVec.and_append, BitVec.and_allOnes, BitVec.and_zero]
  rfl

theorem and_layoutM (t : BitVec 24) (k : Bool) : layoutM t k &&& 0x000000EF = layoutM 0 false := by
  change t ++ 0#3 ++ BitVec.ofBool k ++ 4#4 &&& 0#24 ++ BitVec.allOnes 3 ++ 0#1 ++ BitVec.allOnes 4 = _
  simp only [BitVec.and_append, BitVec.and_allOnes, BitVec.and_zero]
  rfl

theorem encode_and_rowMask (i : Instr) : encode i &&& i.rowMask = i.rowMatch := by
  cases i with
  | powerUp | powerDown => decide
  | fireNone n | fireHigh n | fireLow n => exact and_layoutF _ _
  | advance n k => exact and_layoutM _ k
  | home k => cases k <;> decide

theorem and_rowMask_of_decode {w : Word} {i : Instr} (h : decode w = .ok i) : w &&& i.rowMask = i.rowMatch :=
  encode_of_decode h ▸ encode_and_rowMask i

section
variable {w mask row : Word} (h : w &&& mask = row)
include h

/-- A field that lies in the mask holds what the match value has there. -/
theorem field_of_and_eq {a n : Nat} {v : BitVec n} (hmask : mask.extractLsb' a n = BitVec.allOnes n)
    (hrow : row.extractLsb' a n = v) : w.extractLsb' a n = v := by
  rw [← hrow, ← h, BitVec.extractLsb'_and, hmask, BitVec.and_allOnes]

/-- A row is part of the row of a smaller mask. -/
theorem and_submask {sub : Word} (hsub : mask &&& sub = sub) : w &&& sub = row &&& sub := by
  rw [← h, BitVec.and_assoc, hsub]

end

section
variable {w : Word}

theorem decode_fireRow (h : w &&& 0x0000FFCF = 0x00000003) :
    decode w = fireCommand (timeoutField w).toNat (waitModeField w) := by
  have hr : w.extractLsb' 6 10 = 0 := field_of_and_eq h (by decide) (by decide)
  rw [decode_opc3 (field_of_and_eq h (by decide) (by decide)), if_neg (not_not.2 hr)]

/-- FIRE's rows by WAIT_MODE are parts of its row of five. -/
theorem fireRow_of_modeRow {row : Word} (h : w &&& 0x0000FFFF = row) (hrow : row &&& 0x0000FFCF = 0x00000003) :
    w &&& 0x0000FFCF = 0x00000003 :=
  (and_submask h (by decide)).trans hrow

theorem decode_modeRow {row : Word} (m : BitVec 2) (h : w &&& 0x0000FFFF = row)
    (hrow : row &&& 0x0000FFCF = 0x00000003) (hm : row.extractLsb' 4 2 = m) :
    decode w = fireCommand (timeoutField w).toNat m := by
  have hmode : waitModeField w = m := field_of_and_eq h (by decide) hm
  rw [decode_fireRow (fireRow_of_modeRow h hrow), hmode]

/-- The words of FIRE's row of five by WAIT_MODE, of which 3 is rejected (rule R87). -/
theorem fireRow_iff :
    w &&& 0x0000FFCF = 0x00000003 ↔
      (∃ n, decode w = .ok (.fireNone n) ∨ decode w = .ok (.fireHigh n) ∨ decode w = .ok (.fireLow n)) ∨
      (w &&& 0x0000FFCF = 0x00000003 ∧ waitModeField w = 3 ∧ decode w = .error .reservedField) := by
  constructor
  · intro h
    have hd := decode_fireRow h
    obtain hm | hm | hm | hm := waitModeField_cases w <;> rw [hm] at hd
    · exact .inl ⟨_, .inl hd⟩
    · exact .inl ⟨_, .inr (.inl hd)⟩
    · exact .inl ⟨_, .inr (.inr hd)⟩
    · exact .inr ⟨h, hm, hd⟩
  · rintro (⟨n, hd | hd | hd⟩ | ⟨h, -⟩)
    · exact fireRow_of_modeRow (row := 0x00000003) (and_rowMask_of_decode hd) (by decide)
    · exact fireRow_of_modeRow (row := 0x00000013) (and_rowMask_of_decode hd) (by decide)
    · exact fireRow_of_modeRow (row := 0x00000023) (and_rowMask_of_decode hd) (by decide)
    · exact h

end

/-- Settles O10: a row's mask covers the fields the decoder looks at, so its match value decides the command. -/
theorem rowsMatchExactlyTheirWords : Obligations.RowsMatchExactlyTheirWords := by
  refine ⟨fun _ _ => and_rowMask_of_decode, fun w h => ?powerUp, fun w h => ?powerDown,
    fun w h => decode_modeRow 0 h (by decide) (by decide), fun w h => decode_modeRow 1 h (by decide) (by decide),
    fun w h => decode_modeRow 2 h (by decide) (by decide), fun w h => ?advance, fun w h => ?home,
    fun w => fireRow_iff⟩
  case powerUp =>
    have hr : w.extractLsb' 4 28 = 0 := field_of_and_eq h (by decide) (by decide)
    rw [decode_opc1 (field_of_and_eq h (by decide) (by decide)), if_neg (not_not.2 hr)]
  case powerDown =>
    have hr : w.extractLsb' 4 28 = 0 := field_of_and_eq h (by decide) (by decide)
    rw [decode_opc2 (field_of_and_eq h (by decide) (by decide)), if_neg (not_not.2 hr)]
  case advance =>
    have hr : w.extractLsb' 5 3 = 0 := field_of_and_eq h (by decide) (by decide)
    rw [decode_opc4 (field_of_and_eq h (by decide) (by decide)), if_neg (not_not.2 hr)]
  case home =>
    have hr : w.extractLsb' 5 27 = 0 := field_of_and_eq h (by decide) (by decide)
    rw [decode_opc5 (field_of_and_eq h (by decide) (by decide)), if_neg (not_not.2 hr)]

/-- Settles O11: each word is decoded as it stands. -/
theorem sampleWordsDecode : Obligations.SampleWordsDecode := by
  unfold Obligations.SampleWordsDecode
  decide

end Sys2Proof
end

section
/-! SUPPORT. The assembler: command statements (spec/30_encoding.md rules R90, R95), and the run of `load_mask` (rules R36, R92). -/

namespace Sys2Proof.Machine

/-! ## Command statements (rules R90, R95) -/

theorem assemble_command (c : Config) {st : Stmt} {i : Instr} (h : st.command? = some i) :
    assemble c st = commandWrite c i := by
  cases st <;> cases h <;> rfl

theorem disassemble_encode {st : Stmt} {i : Instr} (h : st.command? = some i) (hi : i.wf = true) :
    disassemble (encode i) = .command st := by
  unfold disassemble
  rw [decodingAnEncodedCommandGivesItBack i hi]
  cases st <;> cases h <;> rfl

/-- Settles O12: a command statement is its command's write, and the decoder gives the command back. -/
theorem assemblyAndDisassemblyAgree : Obligations.AssemblyAndDisassemblyAgree := by
  intro c st i h
  rw [assemble_command c h]
  unfold commandWrite
  exact ⟨fun hi => ⟨if_pos hi, disassemble_encode h hi⟩, fun hi => if_neg (Bool.eq_false_iff.1 hi)⟩

/-! ## `load_mask` (rules R36, R92) -/

/-- The word of MASK register `k` in a 16-byte mask (rule R92). -/
def maskWord (bytes : List Byte) (k : Nat) : Word :=
  laneWord (bytes.getD (4 * k) 0) (bytes.getD (4 * k + 1) 0) (bytes.getD (4 * k + 2) 0) (bytes.getD (4 * k + 3) 0)

/-- Bit `b` of byte `q` of a word, byte 0 lowest. -/
theorem getLsbD_laneWord (b0 b1 b2 b3 : Byte) {q b : Nat} (hq : q < 4) (hb : b < 8) :
    (laneWord b0 b1 b2 b3).getLsbD (8 * q + b) = ([b0, b1, b2, b3].getD q 0).getLsbD b := by
  unfold laneWord
  simp only [BitVec.getLsbD_append]
  interval_cases q <;> simp (disch := omega) only [if_pos, if_neg]
  all_goals exact congrArg _ (by omega)

theorem getLsbD_maskWord (bytes : List Byte) (k : Nat) {q b : Nat} (hq : q < 4) (hb : b < 8) :
    (maskWord bytes k).getLsbD (8 * q + b) = (bytes.getD (4 * k + q) 0).getLsbD b := by
  unfold maskWord
  rw [getLsbD_laneWord _ _ _ _ hq hb]
  interval_cases q <;> rfl

/-- Nozzle bits of MASK registers that hold a 16-byte mask (rule R36). -/
theorem nozzleBit_of_maskWords {t : State} {bytes : List Byte} (h : ∀ k < 4, t.maskReg k = maskWord bytes k) {n : Nat}
    (hn : n < 128) : nozzleBit t.mask n = (bytes.getD (n / 8) 0).getLsbD (7 - n % 8) := by
  unfold nozzleBit
  rw [getLsbD_mask t (by omega), h _ (by omega),
    show (8 * (n / 8) + (7 - n % 8)) % 32 = 8 * (n / 8 % 4) + (7 - n % 8) by omega,
    getLsbD_maskWord bytes _ (by omega) (by omega),
    show 4 * ((8 * (n / 8) + (7 - n % 8)) / 32) + n / 8 % 4 = n / 8 by omega]

/-- The write of MASK register `k` in `load_mask` (rule R92). -/
def maskWrite (c : Config) (bytes : List Byte) (k : Nat) : HostAccess := wrAccess c (0x10 + 4 * k) (maskWord bytes k)

theorem maskWrites_of_length (c : Config) {bytes : List Byte} (h : bytes.length = 16) :
    maskWrites c bytes = some ((List.range 4).map fun k => .access (maskWrite c bytes k)) := by
  match bytes, h with
  | [_, _, _, _, _, _, _, _, _, _, _, _, _, _, _, _], _ => rfl

theorem maskWrites_of_length_ne (c : Config) {bytes : List Byte} (h : bytes.length ≠ 16) :
    maskWrites c bytes = none := by
  unfold maskWrites
  split
  · exact absurd rfl h
  · rfl

/-! ### A run whose host writes MASK registers (rules R66, R113) -/

/-- A cycle of a run whose next action is an access (log 20). -/
theorem go_access {n : Nat} {s t : State} {a : HostAccess} {rest : List HostAction} {reads : List Word}
    (h : step (s.withHost a) = .next t) :
    Run.go (n + 1) { block := s, todo := .access a :: rest, reads := reads }
      = Run.go n { block := t, todo := rest, reads := reads ++ t.readData.toList } := by
  simp only [Run.go, Run.over, Run.cycle, Run.access, h]
  rfl

theorem inputAt_withHost_succ (s : State) (a : HostAccess) (j : Nat) :
    (s.withHost a).inputAt (j + 1) = s.inputAt (j + 1) := by
  unfold State.inputAt State.withHost
  rw [List.drop_succ_cons, List.drop_tail]

theorem step_inputAt {s t : State} (h : step s = .next t) (j : Nat) : t.inputAt j = s.inputAt (j + 1) := by
  obtain ⟨-, rfl⟩ | ⟨-, u, -, rfl⟩ := step_cases h <;> exact inputAt_endCycle s _ j

theorem step_readData {s t : State} (h : step s = .next t) : t.readData = s.hostReadData := by
  obtain ⟨-, rfl⟩ | ⟨-, u, -, rfl⟩ := step_cases h <;> rfl

/-- The four registers from offset 0x10 on are the MASK registers (rule R29). -/
theorem regAtOffset_mask : ∀ k < 4, regAtOffset (0x10 + 4 * k) ∈ maskRegs := by decide

theorem regAtOffset_mask_ne : ∀ j < 4, ∀ k < 4, j ≠ k → regAtOffset (0x10 + 4 * j) ≠ regAtOffset (0x10 + 4 * k) := by
  decide

theorem maskReg_eq_readReg (s : State) {k : Nat} (hk : k < 4) : s.maskReg k = s.readReg (regAtOffset (0x10 + 4 * k)) := by
  interval_cases k <;> rfl

/-- A cycle of `load_mask` at the runner's pace: one MASK register is written, and the others stay (rules R36, R92, log 20). -/
theorem step_maskWrite {s : State} (bytes : List Byte) {k : Nat} (hk : k < 4) (hr : s.input.rst = false) :
    ∃ t, step (s.withHost (maskWrite s.cfg bytes k)) = .next t ∧ t.cfg = s.cfg ∧ t.readData = none ∧
      (∀ j, t.inputAt j = s.inputAt (j + 1)) ∧
      ∀ j < 4, t.maskReg j = if j = k then maskWord bytes k else s.maskReg j := by
  have hg : regAt s.cfg (s.cfg.base + (0x10 + 4 * k)) = some (regAtOffset (0x10 + 4 * k)) :=
    regAt_base_add s.cfg (by omega)
  obtain ⟨t, h⟩ := (step_next_iff (s.withHost (maskWrite s.cfg bytes k))).2 (accessOk_of_sizeOk rfl)
  refine ⟨t, h, (step_frame h hr).cfg, step_readData h,
    fun j => (step_inputAt h j).trans (inputAt_withHost_succ s _ j), fun j hj => ?_⟩
  rw [maskReg_eq_readReg t hj]
  split
  · next hjk => exact hjk ▸ step_mask_written (regAtOffset_mask k hk) h hr _ _ rfl hg
  · next hjk =>
    refine (step_mask_kept (regAtOffset_mask j hj) h hr ?_).trans (maskReg_eq_readReg (s.withHost _) hj).symm
    rintro ⟨addr, v, hh, hg'⟩
    cases hh
    exact regAtOffset_mask_ne j hj k hk hjk (Option.some.inj (hg'.symm.trans hg))

/-- A run whose host writes the MASK registers `ks`, one a cycle. -/
theorem go_maskWrites (bytes : List Byte) (reads : List Word) (ks : List Nat) (hks : ∀ k ∈ ks, k < 4) :
    ∀ s : State, (∀ j < ks.length, (s.inputAt j).rst = false) →
      ∃ t, Run.go ks.length
          { block := s, todo := ks.map fun k => .access (maskWrite s.cfg bytes k), reads := reads }
            = .next { block := t, todo := [], reads := reads } ∧
        ∀ j < 4, t.maskReg j = if j ∈ ks then maskWord bytes j else s.maskReg j := by
  induction ks with
  | nil => exact fun s _ => ⟨s, rfl, fun _ _ => rfl⟩
  | cons k ks ih =>
    intro s hrst
    rw [List.forall_mem_cons] at hks
    obtain ⟨hk, hks⟩ := hks
    have hr : s.input.rst = false := inputAt_zero s ▸ hrst 0 (Nat.zero_lt_succ _)
    obtain ⟨u, hstep, hcfg, hread, hin, hmask⟩ := step_maskWrite bytes hk hr
    obtain ⟨t, hgo, ht⟩ := ih hks u (fun j hj => by rw [hin]; exact hrst (j + 1) (Nat.succ_lt_succ hj))
    rw [hcfg] at hgo
    refine ⟨t, ?_, fun j hj => ?_⟩
    · rw [List.length_cons, List.map_cons, go_access hstep, hread, Option.toList_none, List.append_nil, hgo]
    · rw [ht j hj, hmask j hj]
      by_cases hjk : j = k <;> simp [hjk]

/-- Settles O43: the four writes go to the four MASK registers, whose bits are the bytes' own. -/
theorem loadMaskLoadsTheNozzles : Obligations.LoadMaskLoadsTheNozzles := by
  refine ⟨fun s bytes h16 hrst => ?_, fun c bytes => maskWrites_of_length_ne c⟩
  obtain ⟨t, hgo, hmask⟩ := go_maskWrites bytes [] (List.range 4) (fun k => List.mem_range.1) s hrst
  exact ⟨_, t, maskWrites_of_length s.cfg h16, hgo, fun n =>
    nozzleBit_of_maskWords fun k hk => (hmask k hk).trans (if_pos (List.mem_range.2 hk))⟩

end Sys2Proof.Machine
end

section
/-! SUPPORT. A CMD write while idle, whole (spec/40_sequencer.md rules R100, R107): which command a step runs, and the position, the
wait and the accumulators its routine starts with. -/

namespace Sys2Proof.Machine

/-! ## A step in which the host writes CMD (rules R66, R107) -/

section
variable {s : State} {w : Word} (ho : s.Offers w)
include ho

theorem hostEffect_of_offers : hostEffect s = cmdWrite w s := by
  obtain ⟨-, addr, hh, hg⟩ := ho
  unfold hostEffect
  rw [hh]
  simp only [hg]

theorem accessOk_of_offers : s.accessOk = true := by
  obtain ⟨-, addr, hh, -⟩ := ho
  exact accessOk_of_sizeOk (by rw [hh]; rfl)

/-- A CMD write while idle is all the cycle does: no routine runs beside it. -/
theorem step_of_offers_idle {t : State} (hb : s.busy = false) (hw : cmdWrite w s = .next t) :
    step s = .next (s.endCycle t) := by
  rw [step_eq (accessOk_of_offers ho) ho.1 ((hostEffect_of_offers ho).trans hw), if_neg (by simp [hb])]

end

theorem cmdWrite_idle_ok {s : State} {w : Word} {i : Instr} (hb : s.busy = false) (hd : decode w = .ok i) :
    cmdWrite w s = exec i s := by
  unfold cmdWrite
  rw [if_neg (by simp [hb]), hd]

theorem cmdWrite_idle_error {s : State} {w : Word} {r : Reject} (hb : s.busy = false) (hd : decode w = .error r) :
    cmdWrite w s = .next (s.rejectWith w r) := by
  unfold cmdWrite
  rw [if_neg (by simp [hb]), hd]

/-- Settles O5: the host's access is the CMD write, and while idle that is `exec` of the decoded command. -/
theorem stepRunsTheDecodedCommand : Obligations.StepRunsTheDecodedCommand :=
  fun _ _ _ _ ho hb hd he => step_of_offers_idle ho hb ((cmdWrite_idle_ok hb hd).trans he)

/-! ## The presented word (log 13) -/

/-- The 32 bits of a word are the word. -/
theorem tableWord_toNat (w : Word) : tableWord 32 w.toNat = w := by
  unfold tableWord
  rw [Nat.mod_eq_of_lt w.isLt, BitVec.ofNat_toNat, BitVec.setWidth_eq]

theorem decodeTableWord_toNat {w : Word} {i : Instr} (h : decode w = .ok i) : decodeTableWord 32 w.toNat = some i := by
  have hw : BitVec.ofNat 32 (w.toNat % 2 ^ 32) = w := tableWord_toNat w
  unfold decodeTableWord
  simp only [hw, h]
  exact if_pos (Nat.mod_lt _ (by decide))

theorem offers_offerWord (s : State) (w : Word) : (s.offerWord w).Offers w :=
  ⟨rfl, s.cfg.base, rfl, regAt_base_add s.cfg (k := 0) (by decide)⟩

/-- Settles O6: the presented word is the command's own, the block is idle, and the step decodes it back. -/
theorem withFetchWordRunsTheWord : Obligations.WithFetchWordRunsTheWord := by
  intro s i hi
  have hd : decode (encode i) = .ok i := decodingAnEncodedCommandGivesItBack i hi
  have ho : (s.withFetchWord 32 (encode i).toNat).Offers (encode i) := by
    unfold State.withFetchWord
    rw [tableWord_toNat]
    exact offers_offerWord s (encode i)
  obtain ⟨t, ht⟩ := exec_next i (s.withFetchWord 32 (encode i).toNat)
  exact ⟨decodeTableWord_toNat hd, rfl, ho, t, ht, stepRunsTheDecodedCommand _ t _ i ho rfl hd ht⟩

/-! ## Where a command's routine starts (rules R107, R147, R172, R180, R193, R203) -/

/-- The accumulators a command's routine starts with, where `p0` is PSTATE at the start of the acceptance cycle (rule R44, log 8). -/
def firstAcc (p0 : PState) : Instr → Acc
  | .powerUp => { Acc.zero with noop := decide (p0 = .ready) }
  | .powerDown => { Acc.zero with noop := decide (p0 = .off) }
  | .fireNone _ => Acc.zero
  | .fireHigh _ => { Acc.zero with rbValid := true }
  | .fireLow _ => { Acc.zero with rbValid := true }
  | .advance steps _ => { Acc.zero with noop := decide (steps = 0) }
  | .home _ => Acc.zero

/-- The end of the acceptance cycle of the command `i`, its routine at its first micro-op. -/
def State.acceptedFirst (i : Instr) (s : State) : State :=
  s.accepted i (firstPosition s.cfg s.pstate i).1 (firstPosition s.cfg s.pstate i).2 (firstAcc s.pstate i)

theorem firstPosition_routine (c : Config) (p0 : PState) (i : Instr) :
    (firstPosition c p0 i).1.routine = commandRoutine i := by
  cases i with
  | fireNone | home => rfl
  | powerUp | powerDown | fireHigh | fireLow | advance =>
    simp only [firstPosition]
    split <;> rfl

/-- Without a ready-wait, or with one of no samples, FIRE starts with the shift (rules R147, R158(1)). -/
theorem fireStart_true (n : Nat) : fireStart true n = if n = 0 then .selectLow .a else .sampleReady 1 := by
  unfold fireStart
  by_cases hn : n = 0 <;> simp [hn, Nat.pos_iff_ne_zero]

/-- A step count in range is 0 exactly when its field is. -/
theorem stepsField_eq_zero_iff {n : Int} (k : Bool) (h : stepsOk n = true) :
    stepsField (encode (.advance n k)) = 0 ↔ n = 0 := by
  change stepsField (layoutM _ k) = 0 ↔ _
  rw [stepsField_layoutM, ← BitVec.toInt_inj, toInt_steps h]
  rfl

/-- A command written to an idle block starts its routine at its first micro-op, FIRE in READY only. -/
theorem exec_acceptedFirst {s : State} {i : Instr} (hb : s.busy = false) (hi : i.wf = true)
    (hp : commandRoutine i = .fire → s.pstate = .ready) : exec i s = .next (s.acceptedFirst i) := by
  have hn : ¬s.busy = true := by simp [hb]
  unfold State.acceptedFirst
  cases i with
  | powerUp =>
    by_cases hready : s.pstate = .ready
    · simp only [firstPosition, firstAcc, if_pos hready, decide_eq_true hready]
      exact exec_powerUp_noop hb hready s.acc
    · simp only [firstPosition, firstAcc, if_neg hready, decide_eq_false hready]
      exact exec_powerUp_start hb hready s.acc
  | powerDown =>
    by_cases hoff : s.pstate = .off
    · simp only [firstPosition, firstAcc, if_pos hoff, decide_eq_true hoff]
      exact exec_powerDown_noop hb hoff s.acc
    · simp only [firstPosition, firstAcc, if_neg hoff, decide_eq_false hoff]
      exact exec_powerDown_start hb hoff s.acc
  | fireNone n => exact congrArg _ (offerFire_ready false hb (hp rfl) rfl)
  | fireHigh n | fireLow n =>
    refine congrArg _ ((offerFire_ready true hb (hp rfl) rfl).trans ?_)
    simp only [encode, timeoutField_layoutF, toNat_timeout hi, fireStart_true, firstPosition, firstAcc]
    split <;> rfl
  | advance n k =>
    simp only [exec, execAdvance, if_neg hn, stepsField_eq_zero_iff k hi, firstPosition, firstAcc]
    by_cases hzero : n = 0
    · simp only [if_pos hzero, decide_eq_true hzero]
      rfl
    · simp only [if_neg hzero, decide_eq_false hzero]
      rfl
  | home k =>
    simp only [exec, execHome, if_neg hn]
    rfl

/-- Settles O13: by the decoder's answer, and for FIRE by PSTATE; the command starts at its first micro-op. -/
theorem idleCommandWriteIsAcceptedOrRejected : Obligations.IdleCommandWriteIsAcceptedOrRejected := by
  intro s w ho hb
  cases hd : decode w with
  | error r =>
    refine ⟨_, step_of_offers_idle ho hb (cmdWrite_idle_error hb hd), fun r' hr => ?_, nofun⟩
    cases hr
    rfl
  | ok i =>
    have hi : encode i = w := encode_of_decode hd
    by_cases hfire : commandRoutine i = .fire ∧ s.pstate ≠ .ready
    · have he := exec_fire_unpowered hb hfire.1 hfire.2
      refine ⟨_, stepRunsTheDecodedCommand s _ w i ho hb hd he, nofun, fun i' hi' => ?_⟩
      cases hi'
      exact ⟨fun _ => by rw [hi], fun hno => absurd hfire hno⟩
    · have hp : commandRoutine i = .fire → s.pstate = .ready := fun hf => by_contra fun hne => hfire ⟨hf, hne⟩
      have he := exec_acceptedFirst hb (wf_of_decode hd) hp
      refine ⟨_, stepRunsTheDecodedCommand s _ w i ho hb hd he, nofun, fun i' hi' => ?_⟩
      cases hi'
      refine ⟨fun h => absurd h hfire, fun _ => ⟨?_, firstPosition_routine s.cfg s.pstate i⟩⟩
      rw [← hi]
      rfl

end Sys2Proof.Machine
end

section
/-! SUPPORT. A running routine against the host and against time: a CMD write beside it is an overrun (spec/40_sequencer.md rule
R109), and its waits last exactly their cycles (rule R102). -/

namespace Sys2Proof.Machine

/-! ## A CMD write while busy (rules R109, R225) -/

/-- An overrun touches nothing that is the cycle's own. -/
theorem overrunWrite_endCycle (s t : State) : s.endCycle t.overrunWrite = (s.endCycle t).overrunWrite := rfl

/-- The cycle of a CMD write while busy is the quiet one with OVERRUN set. -/
theorem step_of_offers_busy {s : State} {w : Word} (ho : s.Offers w) (hb : s.busy = true) :
    step s = .next s.quietCycle.overrunWrite := by
  have hquiet : s.quietCycle = s.endCycle (seqCycle s) := by
    obtain ⟨-, addr, hh, -⟩ := ho
    unfold State.quietCycle State.quietEnd State.endCycle State.hostReadData
    rw [if_pos hb, hh]
  have hwrite : hostEffect s = .next s.overrunWrite := (hostEffect_of_offers ho).trans (if_pos hb)
  rw [step_eq (accessOk_of_offers ho) ho.1 hwrite, if_pos hb, seqCycle_overrunWrite, hquiet, overrunWrite_endCycle]

/-- Settles O17: the overrun commutes with the sequencer's cycle, and without RST only a STATUS write takes OVERRUN to 0. -/
theorem commandWriteWhileBusyIsAnOverrun : Obligations.CommandWriteWhileBusyIsAnOverrun := by
  refine ⟨fun s w ho hb => ⟨s.quietCycle, step_of_offers_busy ho hb, step_quiet ho.1⟩, fun s t h hs ht => ?sticky⟩
  case sticky =>
    cases hr : s.input.rst with
    | true => exact .inl rfl
    | false =>
      obtain ⟨hset, -⟩ | ⟨-, hstatus⟩ := step_overrun_changed h hr (by simp [hs, ht])
      · exact absurd (ht.symm.trans hset) nofun
      · exact .inr hstatus

/-! ## A running wait (rule R102) -/

/-- Within a wait, `j` cycles take `j` from WAITCNT and leave everything else. -/
theorem SeqView.run_waiting {j : Nat} : ∀ {v : SeqView} {p : Nat → Pins}, j ≤ v.waitcnt →
    v.run p j = { v with waitcnt := v.waitcnt - j } := by
  induction j with
  | zero => exact fun _ => rfl
  | succ j ih =>
    intro v p h
    have hw : v.waitcnt = v.waitcnt - 1 + 1 := by omega
    simp only [SeqView.run]
    rw [SeqView.next_wait _ hw, ih (by simp only; omega)]
    simp only [Nat.sub_sub, Nat.add_comm 1 j]

/-- Settles O37: the run is the sequencer's own, and within the wait that only counts down. -/
theorem waitHoldsEverythingForExactlyItsCycles : Obligations.WaitHoldsEverythingForExactlyItsCycles := by
  rintro s n hb rfl hruns j hj
  have waiting {k : Nat} (hk : k ≤ s.waitcnt) : s.view.run s.pinsAt k = { s.view with waitcnt := s.waitcnt - k } :=
    SeqView.run_waiting hk
  have busy : ∀ k < j, (s.view.run s.pinsAt k).upc ≠ .idle := fun k hk => by
    rw [waiting (by omega)]
    exact (State.busy_eq_true s).1 hb
  obtain ⟨u, hu, hv, -⟩ := runCycles_busy (fun _ _ => ([] : List Unit)) (fun k hk => hruns k (by omega)) busy
  rw [waiting hj] at hv
  simp only [State.view, SeqView.mk.injEq] at hv
  obtain ⟨-, hlines, hpstate, hresult, hstepcount, hupc, hwaitcnt, hshiftBuf, hcmdLatch, hacc⟩ := hv
  exact ⟨u, hu, hwaitcnt, hlines, hpstate, hresult, hstepcount, hupc, hshiftBuf, hcmdLatch, hacc⟩

end Sys2Proof.Machine
end

section
/-! SUPPORT. The loop indices, WAITCNT and STEPCOUNT stay in their ranges (spec/40_sequencer.md rule R114, spec/30_encoding.md rule
R85): each kept by the micro-ops, and set in range by a command's acceptance. -/

namespace Sys2Proof.Machine

/-! ## The loop indices -/

/-- The invariant speaks of the sequencer's part of the state only. -/
theorem IndexInv.congr {s t : State} (h : s.view = t.view) (hs : IndexInv s) : IndexInv t := by
  have hp : IndexInv (s.view.withPins s.pins) := hs
  rw [h] at hp
  exact hp

/-- One micro-op of FIRE: a READY sample is followed by the next of TIMEOUT, a bit by the next of 64 (rules R133, R148). -/
theorem indexInv_fireOp {s : State} {p : FirePc} (hu : s.upc = .fire p) (hs : IndexInv s) : IndexInv (fireOp p s) := by
  unfold IndexInv at hs
  rw [hu] at hs
  cases p with
  | sampleReady n =>
    obtain ⟨-, -, hrb⟩ := hs
    simp only [fireOp, readySampleOp]
    split
    · trivial
    · split
      · exact ⟨Nat.succ_pos n, ‹n < s.latchTimeout›, hrb⟩
      · trivial
  | selectLow ch => exact Nat.zero_lt_succ 63
  | clockLow ch k | setData ch k => exact hs
  | clockHigh ch k =>
    simp only [fireOp, clockHighOp]
    split
    · exact ‹k + 1 < 64›
    · trivial
  | selectHigh ch => cases ch <;> trivial
  | strobeLow | strobeHigh | readBack | finish => trivial

/-- One micro-op of ADVANCE: the pulses run from 1 to |STEPS|, and then `pulses` is |STEPS| (rule R193). -/
theorem indexInv_advanceOp {s : State} {p : AdvancePc} (hu : s.upc = .advance p) (hs : IndexInv s) :
    IndexInv (advanceOp p s) := by
  unfold IndexInv at hs
  rw [hu] at hs
  cases p with
  | setDir | stepHigh i | disable => exact hs
  | enable => exact ⟨Nat.le_refl 1, Nat.pos_of_ne_zero hs⟩
  | stepLow i =>
    simp only [advanceOp, advanceStepLowOp]
    split
    · exact ⟨Nat.succ_pos i, ‹i < s.latchCount›⟩
    · cases s.latchKeep <;> rfl
  | finish => trivial

/-- The end of HOME's stepping after a pulse of the budget (rules R203, R204). -/
theorem indexInv_homeExit {s : State} {i : Nat} (hit : Bool) (h1 : 1 ≤ i) (hi : i ≤ s.cfg.homeMaxSteps) :
    IndexInv ({ s with acc := { s.acc with pulses := i, hit := hit } }.goto (.home (homeExit s)) 0) := by
  unfold homeExit
  cases s.latchKeep <;> exact ⟨h1, hi⟩

/-- One micro-op of HOME: the pulses run from 1 to the budget, and then `pulses` is the last one's number (rules R203 to R205). -/
theorem indexInv_homeOp {s : State} {p : HomePc} (hu : s.upc = .home p) (hs : IndexInv s) : IndexInv (homeOp p s) := by
  unfold IndexInv at hs
  rw [hu] at hs
  cases p with
  | setDir | finish => trivial
  | enable =>
    obtain ⟨-, -, -, hbudget, -⟩ := s.cfg.valid
    exact ⟨Nat.le_refl 1, hbudget⟩
  | stepHigh i | stepLow i | disable => exact hs
  | sampleEndstop i =>
    obtain ⟨h1, hi⟩ := hs
    simp only [homeOp, homeSampleOp]
    split
    · exact indexInv_homeExit true h1 hi
    · split
      · exact ⟨Nat.succ_pos i, ‹i < s.cfg.homeMaxSteps›⟩
      · exact indexInv_homeExit s.acc.hit h1 hi

theorem indexInv_seqCycle {s : State} (hs : IndexInv s) : IndexInv (seqCycle s) := by
  unfold seqCycle
  split
  · exact hs
  · unfold microOp
    cases hu : s.upc with
    | idle => exact hs
    | powerUp p => cases p <;> trivial
    | powerDown p => cases p <;> trivial
    | fire p => exact indexInv_fireOp hu hs
    | advance p => exact indexInv_advanceOp hu hs
    | home p => exact indexInv_homeOp hu hs

/-! ### At acceptance (rules R42, R85, R107) -/

theorem latchTimeout_eq {s : State} {n : Nat} {m : BitVec 2} (h : s.cmdLatch = layoutF (BitVec.ofNat 16 n) m)
    (hn : timeoutOk n = true) : s.latchTimeout = n := by
  rw [State.latchTimeout, h, timeoutField_layoutF, toNat_timeout hn]

theorem latchCount_eq {s : State} {n : Int} {k : Bool} (h : s.cmdLatch = layoutM (BitVec.ofInt 24 n) k)
    (hn : stepsOk n = true) : s.latchCount = n.natAbs := by
  rw [State.latchCount, State.latchSteps, h, stepsField_layoutM, toInt_steps hn]

/-- A command starts its loop at the first index, and only where the loop has one: a ready-wait of no samples and a count of 0 go
past theirs (rules R147, R197(1)). -/
theorem indexInv_acceptedFirst (s : State) {i : Instr} (hi : i.wf = true) : IndexInv (s.acceptedFirst i) := by
  cases i with
  | fireNone n | home k => trivial
  | powerUp | powerDown =>
    simp only [State.acceptedFirst, firstPosition]
    split <;> trivial
  | fireHigh n | fireLow n =>
    simp only [State.acceptedFirst, firstPosition]
    split
    · trivial
    · exact ⟨Nat.le_refl 1, (Nat.one_le_iff_ne_zero.2 ‹_›).trans_eq (latchTimeout_eq rfl hi).symm, rfl⟩
  | advance n k =>
    simp only [State.acceptedFirst, firstPosition]
    split
    · subst n
      exact (latchCount_eq rfl hi).symm
    · exact ne_of_eq_of_ne (latchCount_eq rfl hi) (Int.natAbs_ne_zero.2 ‹_›)

theorem indexInv_exec {s t : State} {w : Word} {i : Instr} (hb : s.busy = false) (hd : decode w = .ok i)
    (hs : IndexInv s) (h : exec i s = .next t) : IndexInv t := by
  obtain rfl | ⟨hp, -⟩ := exec_idle_next hb h
  · exact hs
  · cases h.symm.trans (exec_acceptedFirst hb (wf_of_decode hd) hp)
    exact indexInv_acceptedFirst s (wf_of_decode hd)

/-! ## STEPCOUNT (rule R35) -/

/-- The magnitude of a 24-bit two's-complement count (rule R83). -/
theorem latchCount_le (s : State) : s.latchCount ≤ 2 ^ 23 := by
  have hlo := BitVec.le_toInt (stepsField s.cmdLatch)
  have hhi := BitVec.toInt_lt (x := stepsField s.cmdLatch)
  unfold State.latchCount State.latchSteps
  omega

/-- What a motor routine's `done` copies to STEPCOUNT is a count its loop can reach. -/
theorem pulses_le_of_motorFinish {s : State} (hs : IndexInv s) (hu : s.upc = .advance .finish ∨ s.upc = .home .finish) :
    s.acc.pulses ≤ 2 ^ 24 := by
  unfold IndexInv at hs
  obtain hu | hu := hu
  · rw [hu] at hs
    have hpulses : s.acc.pulses = s.latchCount := hs
    have hcount := latchCount_le s
    omega
  · rw [hu] at hs
    obtain ⟨-, hpulses⟩ := hs
    obtain ⟨-, -, -, -, hbudget, -⟩ := s.cfg.valid
    exact hpulses.trans hbudget

/-- The invariant speaks of STEPCOUNT only. -/
theorem CountInv.congr {s t : State} (h : t.stepcount = s.stepcount) (hs : CountInv s) : CountInv t := by
  unfold CountInv
  rw [h]
  exact hs

theorem seqCycle_motorFinish {s : State} (h : s.AtOp (.advance .finish) ∨ s.AtOp (.home .finish)) :
    (seqCycle s).stepcount = BitVec.ofNat 32 s.acc.pulses := by
  obtain ⟨hu, hw⟩ | ⟨hu, hw⟩ := h <;> rw [seqCycle, if_neg (by omega), microOp, hu] <;> rfl

theorem countInv_seqCycle {s : State} (hi : IndexInv s) (hs : CountInv s) : CountInv (seqCycle s) := by
  by_cases h : (seqCycle s).stepcount = s.stepcount
  · exact hs.congr h
  · obtain ⟨-, -, hstep⟩ := seqCycle_latch s
    have hat : s.AtOp (.advance .finish) ∨ s.AtOp (.home .finish) := hstep h
    unfold CountInv
    rw [seqCycle_motorFinish hat, BitVec.toNat_ofNat]
    exact (Nat.mod_le _ _).trans (pulses_le_of_motorFinish hi (hat.imp And.left And.left))

theorem countInv_exec {s t : State} {i : Instr} (hb : s.busy = false) (hs : CountInv s) (h : exec i s = .next t) :
    CountInv t := by
  obtain ⟨rfl, -⟩ | ⟨p, m, u, n, a, rfl, -⟩ := exec_idle_cases hb h <;> exact hs

/-! ## WAITCNT (rule R102, log 9) -/

/-- The waits a micro-op or an acceptance can start: none, a delay of rule R8, or the two after a channel's last bit (rule R133). -/
def waits (c : Config) : List Nat := 0 :: (c.tHi + c.tCsh) :: c.delays

theorem le_of_mem_waits {c : Config} {n : Nat} (h : n ∈ waits c) : n ≤ 2 * (2 ^ 32 - 1) := by
  obtain ⟨-, -, -, -, -, -, hdelays⟩ := c.valid
  have hHi : c.tHi < 2 ^ 32 := hdelays _ (by simp [Params.delays])
  have hCsh : c.tCsh < 2 ^ 32 := hdelays _ (by simp [Params.delays])
  obtain rfl | rfl | hd : n = 0 ∨ n = c.tHi + c.tCsh ∨ n ∈ c.delays := by simpa [waits] using h
  · omega
  · omega
  · have := hdelays n hd
    omega

theorem powerUpOp_waitcnt (p : PowerUpPc) (s : State) : (powerUpOp p s).waitcnt ∈ waits s.cfg := by
  cases p <;> simp [powerUpOp, waits, Params.delays]

theorem powerDownOp_waitcnt (p : PowerDownPc) (s : State) : (powerDownOp p s).waitcnt ∈ waits s.cfg := by
  cases p <;> simp [powerDownOp, waits, Params.delays]

theorem fireOp_waitcnt (p : FirePc) (s : State) : (fireOp p s).waitcnt ∈ waits s.cfg := by
  cases p with
  | sampleReady n =>
    simp only [fireOp, readySampleOp]
    split
    · simp [waits]
    · split <;> simp [waits, Params.delays]
  | clockHigh ch k =>
    simp only [fireOp, clockHighOp]
    split <;> simp [waits, Params.delays]
  | selectHigh ch => cases ch <;> simp [fireOp, selectHighOp, waits]
  | selectLow ch | setData ch k | strobeLow => simp [fireOp, selectLowOp, setDataOp, waits, Params.delays]
  | clockLow ch k | strobeHigh | readBack | finish => simp [fireOp, clockLowOp, readBackOp, fireDoneOp, waits]

theorem advanceOp_waitcnt (p : AdvancePc) (s : State) : (advanceOp p s).waitcnt ∈ waits s.cfg := by
  cases p with
  | stepLow i =>
    simp only [advanceOp, advanceStepLowOp]
    split <;> simp [waits, Params.delays]
  | enable | stepHigh i => simp [advanceOp, waits, Params.delays]
  | setDir | disable | finish => simp [advanceOp, waits]

theorem homeOp_waitcnt (p : HomePc) (s : State) : (homeOp p s).waitcnt ∈ waits s.cfg := by
  cases p with
  | sampleEndstop i =>
    simp only [homeOp, homeSampleOp]
    split
    · simp [waits]
    · split <;> simp [waits]
  | enable | stepHigh i | stepLow i => simp [homeOp, waits, Params.delays]
  | setDir | disable | finish => simp [homeOp, waits]

/-- A cycle of the sequencer counts a wait down or starts one. -/
theorem seqCycle_waitcnt (s : State) : (seqCycle s).waitcnt ≤ s.waitcnt ∨ (seqCycle s).waitcnt ∈ waits s.cfg := by
  unfold seqCycle
  split
  · exact .inl (Nat.sub_le _ _)
  · unfold microOp
    cases s.upc with
    | idle => exact .inl (Nat.le_refl _)
    | powerUp p => exact .inr (powerUpOp_waitcnt p s)
    | powerDown p => exact .inr (powerDownOp_waitcnt p s)
    | fire p => exact .inr (fireOp_waitcnt p s)
    | advance p => exact .inr (advanceOp_waitcnt p s)
    | home p => exact .inr (homeOp_waitcnt p s)

/-- A routine's `done` leaves no wait behind (rule R105). -/
theorem seqCycle_ended {s : State} (hb : s.busy = true) (h : (seqCycle s).busy = false) : (seqCycle s).waitcnt = 0 := by
  obtain hr | ⟨-, hat⟩ := seqCycle_routine s
  · have hbusy : (seqCycle s).busy = s.busy := congrArg (· != Routine.idle) hr
    exact absurd (hb.symm.trans (hbusy.symm.trans h)) nofun
  · obtain ⟨hu, hw⟩ | ⟨hu, hw⟩ | ⟨hu, hw⟩ | ⟨hu, hw⟩ | ⟨hu, hw⟩ := hat
    all_goals
      rw [seqCycle, if_neg (by omega), microOp, hu]
      rfl

theorem WaitInv.congr {s t : State} (h : s.view = t.view) (hs : WaitInv s) : WaitInv t := by
  have hp : WaitInv (s.view.withPins s.pins) := hs
  rw [h] at hp
  exact hp

theorem waitInv_seqCycle {s : State} (hb : s.busy = true) (hs : WaitInv s) : WaitInv (seqCycle s) := by
  obtain ⟨-, hle⟩ := hs
  exact ⟨seqCycle_ended hb, (seqCycle_waitcnt s).elim (fun h => h.trans hle) le_of_mem_waits⟩

theorem firstPosition_waitcnt (c : Config) (p0 : PState) (i : Instr) : (firstPosition c p0 i).2 ∈ waits c := by
  cases i with
  | fireNone n | home k => simp [firstPosition, waits]
  | powerUp | powerDown | fireHigh n | fireLow n | advance n k =>
    simp only [firstPosition]
    split <;> simp [waits, Params.delays]

/-- A command that is taken starts its routine, so the block is busy (rule R107). -/
theorem acceptedFirst_busy (s : State) (i : Instr) : (s.acceptedFirst i).busy = true := by
  have hr : (s.acceptedFirst i).routine = commandRoutine i := firstPosition_routine s.cfg s.pstate i
  unfold State.busy
  rw [hr]
  cases i <;> rfl

theorem waitInv_exec {s t : State} {w : Word} {i : Instr} (hb : s.busy = false) (hd : decode w = .ok i)
    (hs : WaitInv s) (h : exec i s = .next t) : WaitInv t := by
  obtain rfl | ⟨hp, -⟩ := exec_idle_next hb h
  · exact hs
  · cases h.symm.trans (exec_acceptedFirst hb (wf_of_decode hd) hp)
    exact ⟨fun hidle => absurd (hidle.symm.trans (acceptedFirst_busy s i)) nofun,
      le_of_mem_waits (firstPosition_waitcnt s.cfg s.pstate i)⟩

/-! ## Together -/

/-- The three invariants: STEPCOUNT's range rests on the loop indices'. -/
def CountersInv (s : State) : Prop := IndexInv s ∧ CountInv s ∧ WaitInv s

theorem CountersInv.congr {s t : State} (h : s.view = t.view) : CountersInv s → CountersInv t
  | ⟨hi, hc, hw⟩ => ⟨hi.congr h, hc.congr (congrArg SeqView.stepcount h.symm), hw.congr h⟩

theorem countersInv_resetWith (c : Config) : CountersInv (State.resetWith c) :=
  ⟨trivial, Nat.zero_le _, fun _ => rfl, Nat.zero_le _⟩

theorem countersInv_seqCycle {s : State} (hb : s.busy = true) : CountersInv s → CountersInv (seqCycle s)
  | ⟨hi, hc, hw⟩ => ⟨indexInv_seqCycle hi, countInv_seqCycle hi hc, waitInv_seqCycle hb hw⟩

theorem countersInv_exec {s t : State} {w : Word} {i : Instr} (hb : s.busy = false) (hd : decode w = .ok i)
    (h : exec i s = .next t) : CountersInv s → CountersInv t
  | ⟨hi, hc, hw⟩ => ⟨indexInv_exec hb hd hi h, countInv_exec hb hc h, waitInv_exec hb hd hw h⟩

/-- Settles O57: the micro-ops move within the loops and wait for the delays of rule R8, a motor routine's `done` copies a count its
loop reached, and a command starts each loop at its first index. -/
theorem stepKeepsCountersInRange : Obligations.StepKeepsCountersInRange := fun _ _ hi hc hw h =>
  step_keeps (Inv := CountersInv) (fun _ _ => CountersInv.congr) countersInv_resetWith (fun _ => countersInv_seqCycle)
    (fun _ _ _ _ hs => hs) (fun _ _ _ _ hb hd hs he => countersInv_exec hb hd he hs) ⟨hi, hc, hw⟩ h

end Sys2Proof.Machine
end

section
/-! SUPPORT. SCLK, the chip selects and FIRE_N (spec/41_serial_link.md rules R133, R135, R136, spec/42_firing.md rule R151): what
each micro-op of FIRE drives takes its position's levels to the next one's, and nothing else drives one of the four lines. -/

namespace Sys2Proof.Machine

/-! ## The levels -/

/-- The four levels after set(line := v) (rule R101). -/
def SerialLevels.set (x : SerialLevels) (line : Line) (v : Bool) : SerialLevels :=
  match line with
  | .sclk => { x with sclk := v }
  | .csAN => { x with csAN := v }
  | .csBN => { x with csBN := v }
  | .fireN => { x with fireN := v }
  | _ => x

theorem serial_set (x : Lines) (line : Line) (v : Bool) : (x.set line v).serial = x.serial.set line v := by
  cases line <;> rfl

/-- No routine but FIRE writes one of the four lines ("Lines written" of rules R172, R180, R193, R203). -/
theorem serial_not_mem_routineLines {r : Routine} (hr : r ≠ .fire) :
    Line.sclk ∉ routineLines r ∧ Line.csAN ∉ routineLines r ∧ Line.csBN ∉ routineLines r ∧
    Line.fireN ∉ routineLines r := by
  cases r with
  | fire => exact absurd rfl hr
  | idle | powerUp | powerDown | advance | home => decide

theorem seqCycle_serial {s : State} (hr : s.routine ≠ .fire) : (seqCycle s).lines.serial = s.lines.serial := by
  obtain ⟨hclk, ha, hb, hf⟩ := serial_not_mem_routineLines hr
  simp only [Lines.serial, SerialLevels.mk.injEq]
  exact ⟨seqCycle_lines s _ hclk, seqCycle_lines s _ ha, seqCycle_lines s _ hb, seqCycle_lines s _ hf⟩

/-! ## The invariant (rules R135, R136, R151) -/

/-- The invariant speaks of the sequencer's part of the state only. -/
theorem SerialInv.congr {s t : State} (h : s.view = t.view) (hs : SerialInv s) : SerialInv t := by
  have hp : SerialInv (s.view.withPins s.pins) := hs
  rw [h] at hp
  exact hp

theorem serialInv_of_fire {s : State} {p : FirePc} (hu : s.upc = .fire p) : SerialInv s ↔ s.lines.serial = fireLevels p := by
  unfold SerialInv
  rw [hu]

theorem serialInv_of_not_fire {s : State} (hr : s.routine ≠ .fire) : SerialInv s ↔ s.lines.serial = serialIdle := by
  unfold SerialInv
  cases hu : s.upc with
  | fire p => exact absurd (congrArg Upc.routine hu) hr
  | idle | powerUp | powerDown | advance | home => rfl

theorem routine_ne_fire_of_idle {s : State} (hb : s.busy = false) : s.routine ≠ .fire :=
  fun hf => by simp [State.busy, hf] at hb

/-- A micro-op of FIRE that drives one line, and by that takes its position's levels to the next one's. -/
theorem serialInv_drive_goto {s : State} {p q : FirePc} {line : Line} {v : Bool} (n : Nat)
    (hs : s.lines.serial = fireLevels p) (hq : (fireLevels p).set line v = fireLevels q) :
    SerialInv ((s.drive line v).goto (.fire q) n) :=
  (serialInv_of_fire rfl).2 <|
    calc (s.lines.set line v).serial
      _ = s.lines.serial.set line v := serial_set s.lines line v
      _ = (fireLevels p).set line v := by rw [hs]
      _ = fireLevels q := hq

/-- One micro-op of FIRE: only the shift's and the strobe's drive a level (rules R133, R147). -/
theorem serialInv_fireOp {s : State} {p : FirePc} (hs : s.lines.serial = fireLevels p) : SerialInv (fireOp p s) := by
  cases p with
  | sampleReady n =>
    simp only [fireOp, readySampleOp]
    split
    · exact hs
    · split <;> exact hs
  | selectLow ch => exact serialInv_drive_goto _ hs (by cases ch <;> rfl)
  | clockLow ch k => exact serialInv_drive_goto _ hs (by cases ch <;> rfl)
  | setData ch k => exact serialInv_drive_goto _ hs rfl
  | clockHigh ch k =>
    simp only [fireOp, clockHighOp]
    split <;> exact serialInv_drive_goto _ hs (by cases ch <;> rfl)
  | selectHigh ch => cases ch <;> exact serialInv_drive_goto _ hs rfl
  | strobeLow | strobeHigh => exact serialInv_drive_goto _ hs rfl
  | readBack | finish => exact hs

theorem serialInv_seqCycle {s : State} (hs : SerialInv s) : SerialInv (seqCycle s) := by
  by_cases hw : 0 < s.waitcnt
  · rw [seqCycle, if_pos hw]
    exact hs
  cases hu : s.upc with
  | fire p =>
    rw [seqCycle, if_neg hw, microOp, hu]
    exact serialInv_fireOp ((serialInv_of_fire hu).1 hs)
  | idle | powerUp | powerDown | advance | home =>
    have hr : s.routine ≠ .fire := by simp [State.routine, hu, Upc.routine]
    have hr' : (seqCycle s).routine ≠ .fire := by
      obtain hsame | ⟨hidle, -⟩ := seqCycle_routine s
      · exact hsame ▸ hr
      · exact routine_ne_fire_of_idle hidle
    exact (serialInv_of_not_fire hr').2 ((seqCycle_serial hr).trans ((serialInv_of_not_fire hr).1 hs))

/-- A command starts with the clock high, no channel selected and no strobe, FIRE too: neither the first READY sample nor the
first chip select has driven a line yet. -/
theorem serialInv_acceptedFirst {s : State} (i : Instr) (hl : s.lines.serial = serialIdle) : SerialInv (s.acceptedFirst i) := by
  cases i with
  | fireNone | home => exact hl
  | powerUp | powerDown | fireHigh | fireLow | advance =>
    simp only [State.acceptedFirst, firstPosition]
    split <;> exact hl

theorem serialInv_exec {s t : State} {w : Word} {i : Instr} (hb : s.busy = false) (hd : decode w = .ok i)
    (hs : SerialInv s) (h : exec i s = .next t) : SerialInv t := by
  obtain rfl | ⟨hp, -⟩ := exec_idle_next hb h
  · exact hs
  · cases h.symm.trans (exec_acceptedFirst hb (wf_of_decode hd) hp)
    exact serialInv_acceptedFirst i ((serialInv_of_not_fire (routine_ne_fire_of_idle hb)).1 hs)

/-- Settles O53: each micro-op of FIRE drives its line to the next position's levels, no other routine touches one of the four
lines, and a command is accepted with all of them idle. -/
theorem stepKeepsSerialInvariant : Obligations.StepKeepsSerialInvariant := fun _ _ hs h =>
  step_keeps (fun _ _ => SerialInv.congr) (fun _ => rfl) (fun _ _ => serialInv_seqCycle) (fun _ _ _ _ hi => hi)
    (fun _ _ _ _ => serialInv_exec) hs h

/-! ## What it is for (rules R136, R151) -/

/-- At most one channel is selected, and a strobe finds the clock high and no channel selected. -/
def SerialLevels.Safe (x : SerialLevels) : Prop :=
  (x.csAN = true ∨ x.csBN = true) ∧ (x.fireN = false → x.sclk = true ∧ x.csAN = true ∧ x.csBN = true)

theorem safe_serialIdle : serialIdle.Safe := ⟨.inl rfl, nofun⟩

theorem safe_serialSelected (ch : Channel) (clk : Bool) : (serialSelected ch clk).Safe := by
  cases ch with
  | a => exact ⟨.inr rfl, nofun⟩
  | b => exact ⟨.inl rfl, nofun⟩

theorem safe_fireLevels (p : FirePc) : (fireLevels p).Safe := by
  cases p with
  | sampleReady | selectLow | strobeLow | readBack | finish => exact safe_serialIdle
  | clockLow ch | setData ch | clockHigh ch | selectHigh ch => exact safe_serialSelected ch _
  | strobeHigh => exact ⟨.inl rfl, fun _ => ⟨rfl, rfl, rfl⟩⟩

theorem SerialInv.safe {s : State} (hs : SerialInv s) : s.lines.serial.Safe := by
  unfold SerialInv at hs
  split at hs
  · exact hs ▸ safe_fireLevels _
  · exact hs ▸ safe_serialIdle

/-- Settles O54: the levels of each position are safe, and outside FIRE the clock idles high. -/
theorem chipSelectsNeverOverlap : Obligations.ChipSelectsNeverOverlap := by
  intro s hs
  obtain ⟨hselect, hstrobe⟩ := hs.safe
  refine ⟨hselect, hstrobe, fun hlow => by_contra fun hr => ?_⟩
  have hclk : s.lines.sclk = true := congrArg SerialLevels.sclk ((serialInv_of_not_fire hr).1 hs)
  exact absurd (hlow.symm.trans hclk) nofun

end Sys2Proof.Machine
end

section
/-! SUPPORT. The ready-wait's length (spec/42_firing.md rules R148, R156), by the number of its samples. -/

namespace Sys2Proof.Machine

section
variable {tPoll : Nat} {want : Bool} {level : Nat → Bool} (n : Nat)

/-- A sample at the awaited level ends the wait in its own cycle (rule R148). -/
theorem readyWait_hit (h : level 0 = want) : readyWait tPoll want level (n + 1) = (1, true) := by
  rw [readyWait, if_pos h]

/-- A sample at the other level is followed by T_POLL cycles and then by the samples left (rule R148). -/
theorem readyWait_miss (h : level 0 ≠ want) :
    readyWait tPoll want level (n + 1) =
      (1 + tPoll + (readyWait tPoll want (fun j => level (1 + tPoll + j)) n).1,
        (readyWait tPoll want (fun j => level (1 + tPoll + j)) n).2) := by
  rw [readyWait, if_neg h]

end

/-- The samples are 1 + T_POLL cycles apart. -/
theorem next_sample (tPoll j : Nat) : 1 + tPoll + j * (1 + tPoll) = (j + 1) * (1 + tPoll) := by
  rw [Nat.succ_mul, Nat.add_comm]

/-- The sample after `k` misses is the first match: each miss took 1 + T_POLL cycles, the match takes one (rule R156). -/
theorem readyWait_match {tPoll : Nat} {want : Bool} {n : Nat} : ∀ {level : Nat → Bool} {k : Nat}, k < n →
    level (k * (1 + tPoll)) = want → (∀ j < k, level (j * (1 + tPoll)) ≠ want) →
    readyWait tPoll want level n = (k * (1 + tPoll) + 1, true) := by
  induction n with
  | zero => exact fun hk => absurd hk (Nat.not_lt_zero _)
  | succ n ih =>
    intro level k hk hmatch hmiss
    cases k with
    | zero => rw [readyWait_hit n (by simpa using hmatch), Nat.zero_mul]
    | succ k =>
      have hrest := ih (level := fun j => level (1 + tPoll + j)) (k := k) (by omega)
        (by rw [next_sample]; exact hmatch) fun j hj => by rw [next_sample]; exact hmiss (j + 1) (by omega)
      rw [readyWait_miss n (by simpa using hmiss 0 k.succ_pos), hrest, ← Nat.add_assoc, next_sample]

/-- Without a match every sample takes 1 + T_POLL cycles (rule R156). -/
theorem readyWait_no_match {tPoll : Nat} {want : Bool} {n : Nat} : ∀ {level : Nat → Bool},
    (∀ j < n, level (j * (1 + tPoll)) ≠ want) → readyWait tPoll want level n = (n * (1 + tPoll), false) := by
  induction n with
  | zero => exact fun _ => by rw [Nat.zero_mul]; rfl
  | succ n ih =>
    intro level hmiss
    have hrest := ih (level := fun j => level (1 + tPoll + j)) fun j hj => by
      rw [next_sample]; exact hmiss (j + 1) (by omega)
    rw [readyWait_miss n (by simpa using hmiss 0 n.succ_pos), hrest, next_sample]

/-- Settles O23: the samples counted from 1 are the sample cycles counted from 0, each miss 1 + T_POLL cycles long. -/
theorem readyWaitLength : Obligations.ReadyWaitLength := by
  refine fun tPoll want level n => ⟨fun k hk1 hkn hmatch hmiss => ?_, fun hmiss => ?_⟩
  · exact readyWait_match (by omega) hmatch fun j hj => hmiss (j + 1) (by omega) (by omega)
  · exact readyWait_no_match fun j hj => hmiss (j + 1) (by omega) (by omega)

end Sys2Proof.Machine
end

section
/-! SUPPORT. A routine's run as its segments put together, and what such a run is for the block: its line traces and its completion
(spec/40_sequencer.md rules R100, R103, R108, R110). -/

namespace Sys2Proof.Machine

/-! ## Segments of a routine's run (rules R100, R102) -/

/-- From the sequencer's part `v`, `n` cycles of a running routine lead to `w`; `tr` holds the lines before and after each of them.
`p j` are the input levels of the `j`-th. -/
structure SeqView.Leads (p : Nat → Pins) (n : Nat) (v w : SeqView) (tr : List (Lines × Lines)) : Prop where
  run : v.run p n = w
  busy : ∀ j < n, (v.run p j).upc ≠ .idle
  trace : v.gather (fun x y => [(x, y)]) p n = tr

theorem SeqView.Leads.refl (p : Nat → Pins) (v : SeqView) : v.Leads p 0 v [] where
  run := rfl
  busy := fun _ hj => absurd hj (Nat.not_lt_zero _)
  trace := rfl

theorem SeqView.Leads.trans {p : Nat → Pins} {m n : Nat} {u v w : SeqView} {tr tr' : List (Lines × Lines)}
    (h : u.Leads p m v tr) (h' : v.Leads (fun j => p (m + j)) n w tr') : u.Leads p (m + n) w (tr ++ tr') where
  run := by rw [SeqView.run_add, h.run, h'.run]
  trace := by rw [SeqView.gather_add, h.run, h.trace, h'.trace]
  busy := fun j hj => by
    by_cases hm : j < m
    · exact h.busy j hm
    · have hj' : j = m + (j - m) := by omega
      rw [hj', SeqView.run_add, h.run]
      exact h'.busy (j - m) (by omega)

/-- A micro-op and the `n` cycles of the wait after it (rule R102). -/
theorem SeqView.Leads.of_op {p : Nat → Pins} {n : Nat} {v w : SeqView} (hv : v.upc ≠ .idle)
    (hnext : v.next (p 0) = { w with waitcnt := n }) (hw : w.waitcnt = 0) (hbusy : 0 < n → w.upc ≠ .idle) :
    v.Leads p (n + 1) w ((v.lines, w.lines) :: List.replicate n (w.lines, w.lines)) where
  run := by
    rw [SeqView.run, hnext, SeqView.run_wait (n := n) rfl, ← hw]
  busy := fun j hj => by
    cases j with
    | zero => exact hv
    | succ j =>
      rw [SeqView.run, hnext, SeqView.run_waiting (by simp only; omega)]
      exact hbusy (by omega)
  trace := by
    rw [SeqView.gather, hnext, SeqView.gather_wait (n := n) rfl, List.flatten_replicate_singleton]
    rfl

/-- Whatever is gathered from the lines is read off the trace. -/
theorem SeqView.gather_eq_flatMap {α : Type} (f : Lines → Lines → List α) {n : Nat} : ∀ {v : SeqView} {p : Nat → Pins},
    v.gather f p n = (v.gather (fun x y => [(x, y)]) p n).flatMap fun xy => f xy.1 xy.2 := by
  induction n with
  | zero => exact rfl
  | succ n ih =>
    intro v p
    rw [SeqView.gather, ih]
    rfl

/-! ## The block's own run (rules R43, R66, R110) -/

/-- A run of one more cycle is the run and that cycle. -/
theorem runCycles_succ {n : Nat} : ∀ {s t u : State}, runCycles n s = .next t → runCycles (n + 1) s = .next u →
    step t = .next u := by
  induction n with
  | zero =>
    intro s t u ht hu
    cases ht
    rw [runCycles] at hu
    cases h : step s with
    | next t => rw [h] at hu; exact hu
    | fault r => rw [h] at hu; cases hu
    | refused r => rw [h] at hu; cases hu
  | succ n ih =>
    intro s t u ht hu
    rw [runCycles] at ht hu
    cases h : step s with
    | next s' => rw [h] at ht hu; exact ih ht hu
    | fault r => rw [h] at hu; cases hu
    | refused r => rw [h] at hu; cases hu

/-- What is gathered in a run of one more cycle. -/
theorem gather_succ {α : Type} {f : State → State → List α} {n : Nat} : ∀ {s t u : State}, runCycles n s = .next t →
    step t = .next u → gather f (n + 1) s = gather f n s ++ f t u := by
  induction n with
  | zero =>
    intro s t u ht hu
    cases ht
    simp only [gather, hu, List.append_nil, List.nil_append]
  | succ n ih =>
    intro s t u ht hu
    rw [runCycles] at ht
    rw [gather, gather]
    cases h : step s with
    | next s' => rw [h] at ht; simp only [ih ht hu, List.append_assoc]
    | fault r => rw [h] at ht; cases ht
    | refused r => rw [h] at ht; cases ht

/-- A running routine runs on as the sequencer's part does (rules R66, R110). -/
theorem runCycles_view {n : Nat} {s : State} (hr : s.RunsFor n) (hb : ∀ j < n, (s.view.run s.pinsAt j).upc ≠ .idle) :
    ∃ u, runCycles n s = .next u ∧ u.view = s.view.run s.pinsAt n ∧ ∀ j, u.inputAt j = s.inputAt (n + j) := by
  obtain ⟨u, hu, hv, hi, -⟩ := runCycles_busy (fun _ _ => ([] : List Unit)) hr hb
  exact ⟨u, hu, hv, hi⟩

/-- The two ends of the last cycle of a running routine's run. -/
theorem runCycles_last {n : Nat} {s : State} (hr : s.RunsFor (n + 1))
    (hb : ∀ j < n + 1, (s.view.run s.pinsAt j).upc ≠ .idle) :
    ∃ t u, runCycles n s = .next t ∧ runCycles (n + 1) s = .next u ∧ step t = .next u ∧
      t.view = s.view.run s.pinsAt n ∧ u.view = s.view.run s.pinsAt (n + 1) ∧ t.input = s.inputAt n := by
  obtain ⟨t, ht, hvt, hit⟩ := runCycles_view (fun j hj => hr j (by omega)) (fun j hj => hb j (Nat.lt_succ_of_lt hj))
  obtain ⟨u, hu, hvu, -⟩ := runCycles_view hr hb
  exact ⟨t, u, ht, hu, runCycles_succ ht hu, hvt, hvu, by rw [← inputAt_zero, hit, Nat.add_zero]⟩

/-- BUSY along a run is read off the sequencer's part (rule R43). -/
theorem busyTrace_eq {n : Nat} {s : State} (hr : s.RunsFor n) (hb : ∀ j < n, (s.view.run s.pinsAt j).upc ≠ .idle) :
    busyTrace n s = (List.range n).map fun j => (s.view.run s.pinsAt (j + 1)).busy := by
  induction n with
  | zero => rfl
  | succ n ih =>
    obtain ⟨t, u, ht, -, hstep, -, hvu, -⟩ := runCycles_last hr hb
    have hlast : u.busy = (s.view.run s.pinsAt (n + 1)).busy := by rw [← hvu, State.view_busy]
    have hfirst := ih (fun j hj => hr j (by omega)) (fun j hj => hb j (Nat.lt_succ_of_lt hj))
    unfold busyTrace at hfirst ⊢
    rw [gather_succ ht hstep, hfirst, hlast, List.range_succ, List.map_append]
    rfl

/-- A quiet cycle of a running routine leaves what only the host writes (rule R66(5)). -/
theorem step_sameHostSide {s t : State} (h : step s = .next t) (hr : s.input.rst = false) (hq : s.input.host = .quiet) :
    s.SameHostSide t := by
  obtain ⟨hover, hmasks⟩ | ⟨w, ⟨-, addr, hw, -⟩, -⟩ | ⟨addr, r, v, hw, -⟩ := step_host_cases h hr
  · simp only [State.masks, maskRegs, State.readReg, List.map_cons, List.map_nil, List.cons.injEq, and_true] at hmasks
    obtain ⟨h0, h1, h2, h3⟩ := hmasks
    exact ⟨h0, h1, h2, h3, hover⟩
  · exact absurd (hq.symm.trans hw) nofun
  · exact absurd (hq.symm.trans hw) nofun

theorem State.SameHostSide.trans {s t u : State} (h : s.SameHostSide t) (h' : t.SameHostSide u) : s.SameHostSide u := by
  obtain ⟨a0, a1, a2, a3, a4⟩ := h
  obtain ⟨b0, b1, b2, b3, b4⟩ := h'
  exact ⟨b0.trans a0, b1.trans a1, b2.trans a2, b3.trans a3, b4.trans a4⟩

/-- While the host is silent, a running routine leaves what only the host writes. -/
theorem runCycles_sameHostSide {n : Nat} {s : State} (hr : s.RunsFor n)
    (hb : ∀ j < n, (s.view.run s.pinsAt j).upc ≠ .idle) (hq : s.SilentFor n) :
    ∀ {u : State}, runCycles n s = .next u → s.SameHostSide u := by
  induction n with
  | zero => intro u hu; cases hu; exact ⟨rfl, rfl, rfl, rfl, rfl⟩
  | succ n ih =>
    intro u hu
    obtain ⟨t, u', ht, hu', hstep, -, -, hin⟩ := runCycles_last hr hb
    cases hu.symm.trans hu'
    have hrst : t.input.rst = false := by
      have hruns := hr n n.lt_succ_self
      simp only [inputRuns, Bool.and_eq_true, Bool.not_eq_true'] at hruns
      exact hin ▸ hruns.1
    exact (ih (fun j hj => hr j (by omega)) (fun j hj => hb j (Nat.lt_succ_of_lt hj)) (fun j hj => hq j (by omega)) ht).trans
      (step_sameHostSide hstep hrst (hin ▸ hq n n.lt_succ_self))

/-- A routine whose run leads to an idle sequencer in its last cycle completes, with the block as the run leaves it (rules R43,
R108). -/
theorem completes_of_leads {t : State} {n : Nat} {w : SeqView} {tr : List (Lines × Lines)} {Final : State → Prop}
    (h : t.view.Leads t.pinsAt (n + 1) w tr) (hw : w.upc = .idle) (hfinal : ∀ u : State, u.view = w → Final u) :
    Completes t (n + 1) Final := by
  intro hr
  obtain ⟨u, hu, hv, -⟩ := runCycles_view hr h.busy
  have hend : u.view = w := hv.trans h.run
  have hupc : u.upc = .idle := (congrArg SeqView.upc hend).trans hw
  refine ⟨?busy, u, hu, (State.busy_eq_false u).2 hupc, fun hq => runCycles_sameHostSide hr h.busy hq hu, hfinal u hend⟩
  case busy =>
    have hrunning : ∀ j ∈ List.range n, (t.view.run t.pinsAt (j + 1)).busy = true := fun j hj => by
      have hne := h.busy (j + 1) (by simpa using hj)
      exact (State.busy_eq_true ((t.view.run t.pinsAt (j + 1)).withPins (t.pinsAt 0))).2 hne
    have hidle : (t.view.run t.pinsAt (n + 1)).busy = false := by
      rw [h.run, SeqView.busy, SeqView.routine, hw]
      rfl
    rw [busyTrace_eq hr h.busy, List.range_succ, List.map_append, List.map_congr_left hrunning, List.map_const',
      List.length_range]
    simp only [List.map_cons, List.map_nil, hidle, Nat.add_sub_cancel]

/-- Whatever is gathered from the lines along a routine's run is read off its trace. -/
theorem gather_of_leads {α : Type} (f : Lines → Lines → List α) {t : State} {n : Nat} {w : SeqView}
    {tr : List (Lines × Lines)} (h : t.view.Leads t.pinsAt n w tr) (hr : t.RunsFor n) :
    gather (fun s u => f s.lines u.lines) n t = tr.flatMap fun xy => f xy.1 xy.2 := by
  obtain ⟨u, -, -, -, hg⟩ := runCycles_busy f hr h.busy
  rw [hg, SeqView.gather_eq_flatMap, h.trace]

/-- The levels of a line along a routine's run are read off its trace (rule R103). -/
theorem levelTrace_of_leads (l : Line) {t : State} {n : Nat} {w : SeqView} {tr : List (Lines × Lines)}
    (h : t.view.Leads t.pinsAt n w tr) (hr : t.RunsFor n) : levelTrace l n t = tr.map fun xy => xy.2.get l := by
  rw [← List.flatMap_pure_eq_map]
  exact gather_of_leads (fun _ y => [y.get l]) h hr

end Sys2Proof.Machine
end

section
/-! SUPPORT. A schedule: lines driven one after another, each level held for some cycles; the levels of every line and the rising
edges of SCLK in it (spec/40_sequencer.md rules R101 to R103). -/

namespace Sys2Proof.Machine

/-- set(line := level); wait(hold) (rules R101, R102). -/
structure Drive where
  line : Line
  level : Bool
  hold : Nat

/-- The cycles a schedule takes. -/
def duration (ds : List Drive) : Nat := (ds.map fun d => d.hold + 1).sum

/-- The lines after a schedule. -/
def linesAfter (x : Lines) (ds : List Drive) : Lines := ds.foldl (fun x d => x.set d.line d.level) x

/-- The lines before and after each cycle of a schedule. -/
def driveTrace (x : Lines) : List Drive → List (Lines × Lines)
  | [] => []
  | d :: ds =>
    let y := x.set d.line d.level
    (x, y) :: List.replicate d.hold (y, y) ++ driveTrace y ds

/-- The levels of a line in each cycle of a schedule. -/
def driveLevels (l : Line) (x : Lines) (ds : List Drive) : List Bool := (driveTrace x ds).map fun xy => xy.2.get l

theorem duration_append (ds es : List Drive) : duration (ds ++ es) = duration ds + duration es := by
  simp only [duration, List.map_append, List.sum_append]

theorem duration_cons (d : Drive) (ds : List Drive) : duration (d :: ds) = d.hold + 1 + duration ds := by
  simp only [duration, List.map_cons, List.sum_cons]

theorem duration_singleton (d : Drive) : duration [d] = d.hold + 1 := rfl

theorem duration_flatMap_const {α : Type} {n : Nat} {f : α → List Drive} (h : ∀ a, duration (f a) = n) (as : List α) :
    duration (as.flatMap f) = as.length * n := by
  induction as with
  | nil => rw [List.length_nil, Nat.zero_mul]; rfl
  | cons a as ih => rw [List.flatMap_cons, duration_append, h, ih, List.length_cons, Nat.succ_mul, Nat.add_comm]

theorem linesAfter_append (x : Lines) (ds es : List Drive) : linesAfter x (ds ++ es) = linesAfter (linesAfter x ds) es :=
  List.foldl_append

theorem driveTrace_append (ds es : List Drive) : ∀ x : Lines,
    driveTrace x (ds ++ es) = driveTrace x ds ++ driveTrace (linesAfter x ds) es := by
  induction ds with
  | nil => exact fun _ => rfl
  | cons d ds ih =>
    intro x
    simp only [List.cons_append, driveTrace, ih, List.append_assoc]
    rfl

theorem driveLevels_append (l : Line) (x : Lines) (ds es : List Drive) :
    driveLevels l x (ds ++ es) = driveLevels l x ds ++ driveLevels l (linesAfter x ds) es := by
  simp only [driveLevels, driveTrace_append, List.map_append]

/-- A driven line has its new level from the cycle of the drive on. -/
theorem driveLevels_cons (l : Line) (x : Lines) (d : Drive) (ds : List Drive) :
    driveLevels l x (d :: ds) =
      List.replicate (d.hold + 1) ((x.set d.line d.level).get l) ++ driveLevels l (x.set d.line d.level) ds := by
  simp only [driveLevels, driveTrace, List.map_append, List.map_cons, List.map_replicate, List.replicate_succ]

/-- A line a schedule does not drive keeps its level, in each cycle and after it. -/
theorem untouched {l : Line} {ds : List Drive} : ∀ {x : Lines}, (∀ d ∈ ds, d.line ≠ l) →
    driveLevels l x ds = List.replicate (duration ds) (x.get l) ∧ (linesAfter x ds).get l = x.get l := by
  induction ds with
  | nil => exact fun _ => ⟨rfl, rfl⟩
  | cons d ds ih =>
    intro x h
    have hkeep : (x.set d.line d.level).get l = x.get l := by
      rw [Lines.get_set, if_neg (h d (List.mem_cons_self)).symm]
    obtain ⟨hlevels, hafter⟩ := ih (x := x.set d.line d.level) fun e he => h e (List.mem_cons_of_mem d he)
    refine ⟨?_, hafter.trans hkeep⟩
    rw [driveLevels_cons, hlevels, hkeep, List.replicate_append_replicate, duration_cons]

/-- A line driven at the head of a schedule, and not again in it, keeps the new level. -/
theorem driveLevels_driven {l : Line} {d : Drive} {ds : List Drive} (x : Lines) (hd : d.line = l)
    (h : ∀ e ∈ ds, e.line ≠ l) : driveLevels l x (d :: ds) = List.replicate (duration (d :: ds)) d.level := by
  rw [driveLevels_cons, (untouched h).1, Lines.get_set, if_pos hd.symm, List.replicate_append_replicate, duration_cons]

/-- A line driven twice in a schedule: its level before, between and after. -/
theorem driveLevels_pulse {l : Line} {d e : Drive} {pre mid post : List Drive} (x : Lines) (hpre : ∀ d ∈ pre, d.line ≠ l)
    (hd : d.line = l) (hmid : ∀ d ∈ mid, d.line ≠ l) (he : e.line = l) (hpost : ∀ d ∈ post, d.line ≠ l) :
    driveLevels l x (pre ++ d :: mid ++ e :: post) =
      List.replicate (duration pre) (x.get l) ++ List.replicate (duration (d :: mid)) d.level ++
        List.replicate (duration (e :: post)) e.level := by
  rw [driveLevels_append, driveLevels_append, (untouched hpre).1, driveLevels_driven _ hd hmid, driveLevels_driven _ he hpost]

/-! ## The rising edges of SCLK (rule R133) -/

/-- The rising edge of SCLK between two line states, if there is one: `sclkEdge` looks at the lines only. -/
def linesEdge (x y : Lines) : List SerialEdge :=
  if !x.sclk && y.sclk then [⟨y.csAN, y.csBN, y.sdata⟩] else []

/-- The rising edges of SCLK in a schedule. -/
def driveEdges (x : Lines) (ds : List Drive) : List SerialEdge := (driveTrace x ds).flatMap fun xy => linesEdge xy.1 xy.2

theorem driveEdges_append (x : Lines) (ds es : List Drive) :
    driveEdges x (ds ++ es) = driveEdges x ds ++ driveEdges (linesAfter x ds) es := by
  simp only [driveEdges, driveTrace_append, List.flatMap_append]

/-- While SCLK stands still there is no edge. -/
theorem linesEdge_eq_nil {x y : Lines} (h : y.sclk = x.sclk) : linesEdge x y = [] := by
  rw [linesEdge, h, Bool.not_and_self]
  rfl

theorem flatMap_linesEdge_replicate (n : Nat) (x : Lines) :
    ((List.replicate n (x, x)).flatMap fun xy => linesEdge xy.1 xy.2) = [] :=
  List.flatMap_eq_nil_iff.2 fun xy h => by rw [List.eq_of_mem_replicate h]; exact linesEdge_eq_nil rfl

/-- Only the cycle that drives a line can make an edge. -/
theorem driveEdges_cons (x : Lines) (d : Drive) (ds : List Drive) :
    driveEdges x (d :: ds) = linesEdge x (x.set d.line d.level) ++ driveEdges (x.set d.line d.level) ds := by
  simp only [driveEdges, driveTrace, List.cons_append, List.flatMap_cons, List.flatMap_append, flatMap_linesEdge_replicate,
    List.nil_append]

theorem driveEdges_of_not_sclk {d : Drive} (hd : d.line ≠ .sclk) (x : Lines) (ds : List Drive) :
    driveEdges x (d :: ds) = driveEdges (x.set d.line d.level) ds := by
  have hkeep : (x.set d.line d.level).sclk = x.sclk := (Lines.get_set x d.line .sclk d.level).trans (if_neg hd.symm)
  rw [driveEdges_cons, linesEdge_eq_nil hkeep, List.nil_append]

/-- A schedule that does not drive SCLK makes no edge. -/
theorem driveEdges_eq_nil {ds : List Drive} : ∀ {x : Lines}, (∀ d ∈ ds, d.line ≠ .sclk) → driveEdges x ds = [] := by
  induction ds with
  | nil => exact fun _ => rfl
  | cons d ds ih =>
    intro x h
    obtain ⟨hd, hds⟩ := List.forall_mem_cons.1 h
    rw [driveEdges_of_not_sclk hd, ih hds]

end Sys2Proof.Machine
end

section
/-! SUPPORT. The schedule of FIRE from the first chip select to the strobe's end: its length, the lines after it, the levels in it and
its rising edges of SCLK (spec/41_serial_link.md rules R132 to R138, spec/42_firing.md rules R147, R150, R151, R157). -/

namespace Sys2Proof.Machine

/-- One bit of SHIFT_CHANNEL, the clock held high for `extra` more cycles (rule R133). -/
def bitDrives (c : Config) (extra : Nat) (b : Bool) : List Drive :=
  [⟨.sclk, false, 0⟩, ⟨.sdata, b, c.tSu⟩, ⟨.sclk, true, c.tHi + extra⟩]

/-- The bits `bs` and then the last bit `b`, after which the clock is held T_CSH cycles more (rule R133). -/
def shiftDrives (c : Config) (bs : List Bool) (b : Bool) : List Drive :=
  bs.flatMap (bitDrives c 0) ++ bitDrives c c.tCsh b

/-- The first 63 bits of a channel's stream (rule R132). -/
def firstBits (m : Mask) (ch : Channel) : List Bool := (List.range 63).map (streamBit m ch)

/-- SHIFT_CHANNEL (rule R133). -/
def channelDrives (c : Config) (m : Mask) (ch : Channel) : List Drive :=
  ⟨ch.select, false, c.tCss⟩ :: shiftDrives c (firstBits m ch) (streamBit m ch 63) ++ [⟨ch.select, true, 0⟩]

/-- The strobe (rule R151). -/
def strobeDrives (c : Config) : List Drive := [⟨.fireN, false, c.tFw⟩, ⟨.fireN, true, 0⟩]

/-- Both channels and the strobe (rule R147). -/
def fireDrives (c : Config) (m : Mask) : List Drive :=
  channelDrives c m .a ++ channelDrives c m .b ++ strobeDrives c

variable (c : Config) (m : Mask) (x : Lines)

/-- CHANNEL_A's stream is nozzles 0 to 63, CHANNEL_B's nozzles 64 to 127 (rule R132). -/
theorem streamBit_eq_nozzleBit (ch : Channel) (k : Nat) : streamBit m ch k = nozzleBit m (64 * ch.number + k) := by
  unfold streamBit nozzleBit
  congr 1
  omega

/-! ## Lengths (rules R135, R137) -/

theorem duration_bitDrives (extra : Nat) (b : Bool) : duration (bitDrives c extra b) = bitPeriod c + extra := by
  simp only [bitDrives, duration_cons, bitPeriod]
  simp only [duration, List.map_nil, List.sum_nil]
  omega

theorem duration_shiftDrives (bs : List Bool) (b : Bool) :
    duration (shiftDrives c bs b) = (bs.length + 1) * bitPeriod c + c.tCsh := by
  rw [shiftDrives, duration_append, duration_flatMap_const (duration_bitDrives c 0), duration_bitDrives, Nat.succ_mul,
    Nat.add_zero, Nat.add_assoc]

theorem length_firstBits (ch : Channel) : (firstBits m ch).length = 63 := by
  rw [firstBits, List.length_map, List.length_range]

/-- A channel's chip select is low for all but the last of its cycles (rule R138). -/
theorem duration_selected (ch : Channel) :
    duration (⟨ch.select, false, c.tCss⟩ :: shiftDrives c (firstBits m ch) (streamBit m ch 63)) = channelLength c - 1 := by
  rw [duration_cons, duration_shiftDrives, length_firstBits, channelLength]
  simp only
  omega

theorem duration_channelDrives (ch : Channel) : duration (channelDrives c m ch) = channelLength c := by
  rw [channelDrives, duration_append, duration_selected, channelLength]
  simp only [duration, List.map_cons, List.map_nil, List.sum_cons, List.sum_nil]
  omega

theorem duration_strobeDrives : duration (strobeDrives c) = c.tFw + 2 := rfl

theorem duration_fireDrives : duration (fireDrives c m) = 2 * channelLength c + c.tFw + 2 := by
  rw [fireDrives, duration_append, duration_append, duration_channelDrives, duration_channelDrives, duration_strobeDrives]
  omega

/-! ## The lines driven and the lines after -/

/-- The bits drive SCLK and SDATA only. -/
theorem shiftDrives_line_ne {l : Line} (hclk : Line.sclk ≠ l) (hdata : Line.sdata ≠ l) (bs : List Bool) (b : Bool) :
    ∀ d ∈ shiftDrives c bs b, d.line ≠ l := by
  have bit (e : Nat) (b : Bool) : ∀ d ∈ bitDrives c e b, d.line ≠ l := by
    simp only [bitDrives, List.forall_mem_cons, List.not_mem_nil, false_imp_iff, implies_true, and_true]
    exact ⟨hclk, hdata, hclk⟩
  refine List.forall_mem_append.2 ⟨fun d hd => ?_, bit c.tCsh b⟩
  obtain ⟨a, -, hd⟩ := List.mem_flatMap.1 hd
  exact bit 0 a d hd

/-- SHIFT_CHANNEL drives its channel's select, SCLK and SDATA only (rule R133). -/
theorem channelDrives_line_ne {l : Line} {ch : Channel} (hselect : ch.select ≠ l) (hclk : Line.sclk ≠ l)
    (hdata : Line.sdata ≠ l) : ∀ d ∈ channelDrives c m ch, d.line ≠ l := by
  refine List.forall_mem_append.2 ⟨List.forall_mem_cons.2 ⟨hselect, shiftDrives_line_ne c hclk hdata _ _⟩, ?_⟩
  exact fun d hd => List.mem_singleton.1 hd ▸ hselect

theorem strobeDrives_line_ne {l : Line} (h : Line.fireN ≠ l) : ∀ d ∈ strobeDrives c, d.line ≠ l := by
  simp only [strobeDrives, List.forall_mem_cons, List.not_mem_nil, false_imp_iff, implies_true, and_true]
  exact ⟨h, h⟩

theorem linesAfter_shiftDrives (b : Bool) (bs : List Bool) : ∀ x : Lines,
    linesAfter x (shiftDrives c bs b) = { x with sclk := true, sdata := b } := by
  induction bs with
  | nil => exact fun _ => rfl
  | cons a bs ih =>
    intro x
    rw [shiftDrives, List.flatMap_cons, List.append_assoc, linesAfter_append]
    exact ih _

theorem linesAfter_channelDrives (ch : Channel) :
    linesAfter x (channelDrives c m ch) = { x with sclk := true, sdata := streamBit m ch 63 }.set ch.select true := by
  rw [channelDrives, linesAfter_append, ← List.singleton_append, linesAfter_append, linesAfter_shiftDrives]
  cases ch <;> rfl

/-- After the strobe the five lines stand idle, SDATA at the last bit shifted (rules R135, R136, R151). -/
theorem linesAfter_fireDrives :
    linesAfter x (fireDrives c m) =
      { x with sclk := true, sdata := nozzleBit m 127, csAN := true, csBN := true, fireN := true } := by
  rw [fireDrives, linesAfter_append, linesAfter_append, linesAfter_channelDrives, linesAfter_channelDrives,
    streamBit_eq_nozzleBit m .b]
  rfl

/-! ## The levels (rules R133 to R138, R150, R151) -/

/-- The levels of SCLK in a bit (rule R135). -/
def clockBit : List Bool := List.replicate (c.tSu + 2) false ++ List.replicate (c.tHi + 1) true

theorem repeated_succ (n : Nat) (piece : List Bool) : repeated (n + 1) piece = piece ++ repeated n piece := rfl

/-- Adjacent stretches of one level are one stretch. -/
theorem replicate_append_replicate_append {α : Type} (k n : Nat) (a : α) (l : List α) :
    List.replicate k a ++ (List.replicate n a ++ l) = List.replicate (k + n) a ++ l := by
  rw [← List.append_assoc, List.replicate_append_replicate]

theorem sclk_bitDrives (extra : Nat) (b : Bool) :
    driveLevels .sclk x (bitDrives c extra b) = clockBit c ++ List.replicate extra true := by
  simp only [bitDrives, driveLevels_cons, clockBit]
  simp only [driveLevels, driveTrace, Lines.set, Lines.get, List.map_nil, List.append_nil, List.append_assoc,
    replicate_append_replicate_append, List.replicate_append_replicate]
  congr 2 <;> omega

theorem sclk_shiftDrives (b : Bool) (bs : List Bool) : ∀ x : Lines,
    driveLevels .sclk x (shiftDrives c bs b) = repeated (bs.length + 1) (clockBit c) ++ List.replicate c.tCsh true := by
  induction bs with
  | nil => exact fun x => (sclk_bitDrives c x c.tCsh b).trans (by rw [repeated_succ]; simp [repeated])
  | cons a bs ih =>
    intro x
    rw [shiftDrives, List.flatMap_cons, List.append_assoc, driveLevels_append, sclk_bitDrives, List.length_cons,
      repeated_succ, List.replicate_zero, List.append_nil, List.append_assoc]
    exact congrArg _ (ih _)

/-- A channel's clock: still through the selection, 64 periods, then high (rules R133, R135). -/
theorem sclk_channelDrives (ch : Channel) :
    driveLevels .sclk x (channelDrives c m ch) =
      List.replicate (1 + c.tCss) x.sclk ++ repeated 64 (clockBit c) ++ List.replicate (c.tCsh + 1) true := by
  have hselect : (x.set ch.select false).get .sclk = x.sclk := by cases ch <;> rfl
  have hdeselect (y : Lines) (hy : y.sclk = true) : driveLevels .sclk y [⟨ch.select, true, 0⟩] = [true] := by
    rw [← hy]; cases ch <;> rfl
  rw [channelDrives, driveLevels_append, driveLevels_cons, sclk_shiftDrives, length_firstBits, hselect, hdeselect,
    Nat.add_comm 1]
  · simp only [List.append_assoc, ← List.replicate_succ']
  · rw [← List.singleton_append, linesAfter_append, linesAfter_shiftDrives]

theorem sdata_bitDrives (extra : Nat) (b : Bool) :
    driveLevels .sdata x (bitDrives c extra b) = x.get .sdata :: List.replicate (c.tSu + c.tHi + extra + 2) b := by
  simp only [bitDrives, driveLevels_cons]
  simp only [driveLevels, driveTrace, Lines.set, Lines.get, List.map_nil, List.append_nil, List.replicate_append_replicate]
  exact congrArg (x.sdata :: List.replicate · b) (by omega)

/-- SDATA takes each bit in the second cycle of the bit's period and holds it for a period (rules R133, R134). -/
theorem sdata_shiftDrives (b : Bool) (bs : List Bool) : ∀ x : Lines,
    driveLevels .sdata x (shiftDrives c bs b) =
      x.get .sdata :: (bs.flatMap (List.replicate (bitPeriod c)) ++ List.replicate (c.tSu + c.tHi + c.tCsh + 2) b) := by
  induction bs with
  | nil => exact fun x => sdata_bitDrives c x c.tCsh b
  | cons a bs ih =>
    intro x
    have hrest := ih (linesAfter x (bitDrives c 0 a))
    have hperiod : bitPeriod c = c.tSu + c.tHi + 0 + 2 + 1 := by rw [bitPeriod]; omega
    rw [shiftDrives] at hrest ⊢
    rw [List.flatMap_cons, List.append_assoc, driveLevels_append, sdata_bitDrives, hrest, List.flatMap_cons, hperiod,
      List.replicate_succ' (n := c.tSu + c.tHi + 0 + 2)]
    simp only [List.cons_append, List.append_assoc, List.nil_append]
    rfl

/-- A channel's data: the 64 bits, each for a period, the last one to the channel's end (rules R133, R134). -/
theorem sdata_channelDrives (ch : Channel) :
    driveLevels .sdata x (channelDrives c m ch) =
      List.replicate (2 + c.tCss) x.sdata ++ (firstBits m ch).flatMap (List.replicate (bitPeriod c)) ++
        List.replicate (bitPeriod c + c.tCsh) (streamBit m ch 63) := by
  have hselect (v : Bool) (y : Lines) : (y.set ch.select v).get .sdata = y.get .sdata := by cases ch <;> rfl
  have hperiod : bitPeriod c + c.tCsh = c.tSu + c.tHi + c.tCsh + 2 + 1 := by rw [bitPeriod]; omega
  have hlast : (linesAfter x (⟨ch.select, false, c.tCss⟩ :: shiftDrives c (firstBits m ch) (streamBit m ch 63))).get .sdata
      = streamBit m ch 63 := by
    rw [← List.singleton_append, linesAfter_append, linesAfter_shiftDrives]
    rfl
  rw [channelDrives, driveLevels_append, driveLevels_cons, driveLevels_cons, sdata_shiftDrives, hselect, hselect, hlast,
    hperiod, Nat.add_comm 2, List.replicate_succ' (n := c.tSu + c.tHi + c.tCsh + 2),
    List.replicate_succ' (n := c.tCss + 1)]
  simp only [List.append_assoc, List.cons_append, List.nil_append]
  rfl

/-- A channel's select in a schedule that drives it nowhere else (rule R138). -/
theorem select_channelDrives {ch : Channel} {pre post : List Drive} (hpre : ∀ d ∈ pre, d.line ≠ ch.select)
    (hpost : ∀ d ∈ post, d.line ≠ ch.select) :
    driveLevels ch.select x (pre ++ channelDrives c m ch ++ post) =
      List.replicate (duration pre) (x.get ch.select) ++ List.replicate (channelLength c - 1) false ++
        List.replicate (duration post + 1) true := by
  have hshift := shiftDrives_line_ne c (l := ch.select) (by cases ch <;> decide) (by cases ch <;> decide) (firstBits m ch)
    (streamBit m ch 63)
  have hpulse := driveLevels_pulse (d := ⟨ch.select, false, c.tCss⟩) (e := ⟨ch.select, true, 0⟩) x hpre rfl hshift rfl hpost
  rw [duration_selected, duration_cons, Nat.zero_add, Nat.add_comm 1] at hpulse
  rw [← hpulse, channelDrives]
  simp only [List.append_assoc, List.cons_append, List.nil_append]

/-- CS_A_N in FIRE (rules R138, R150). -/
theorem csAN_fireDrives :
    driveLevels .csAN x (fireDrives c m) =
      List.replicate 0 x.csAN ++ List.replicate (channelLength c - 1) false ++
        List.replicate (channelLength c + c.tFw + 3) true := by
  have hpost : ∀ d ∈ channelDrives c m .b ++ strobeDrives c, d.line ≠ Line.csAN :=
    List.forall_mem_append.2 ⟨channelDrives_line_ne c m (by decide) (by decide) (by decide), strobeDrives_line_ne c (by decide)⟩
  have h := select_channelDrives c m x (ch := .a) (pre := []) nofun hpost
  rw [duration_append, duration_channelDrives, duration_strobeDrives] at h
  rw [fireDrives, List.append_assoc]
  exact h

/-- CS_B_N in FIRE (rules R138, R150). -/
theorem csBN_fireDrives :
    driveLevels .csBN x (fireDrives c m) =
      List.replicate (channelLength c) x.csBN ++ List.replicate (channelLength c - 1) false ++
        List.replicate (c.tFw + 3) true := by
  have h := select_channelDrives c m x (ch := .b) (channelDrives_line_ne c m (ch := .a) (by decide) (by decide) (by decide))
    (strobeDrives_line_ne c (by decide))
  rw [duration_channelDrives, duration_strobeDrives] at h
  exact h

/-- FIRE_N in FIRE (rule R151). -/
theorem fireN_fireDrives :
    driveLevels .fireN x (fireDrives c m) =
      List.replicate (2 * channelLength c) x.fireN ++ List.replicate (c.tFw + 1) false ++ List.replicate 1 true := by
  have hpre : ∀ d ∈ channelDrives c m .a ++ channelDrives c m .b, d.line ≠ Line.fireN :=
    List.forall_mem_append.2 ⟨channelDrives_line_ne c m (by decide) (by decide) (by decide),
      channelDrives_line_ne c m (by decide) (by decide) (by decide)⟩
  have h := driveLevels_pulse (d := ⟨.fireN, false, c.tFw⟩) (e := ⟨.fireN, true, 0⟩) (mid := []) (post := []) x hpre rfl
    nofun rfl nofun
  rw [duration_append, duration_channelDrives, duration_channelDrives, ← Nat.two_mul, duration_singleton,
    duration_singleton] at h
  rw [fireDrives, show strobeDrives c = [⟨.fireN, false, c.tFw⟩] ++ [⟨.fireN, true, 0⟩] from rfl, ← List.append_assoc]
  exact h

/-- SCLK in FIRE (rules R133, R135). -/
theorem sclk_fireDrives :
    driveLevels .sclk x (fireDrives c m) =
      List.replicate (1 + c.tCss) x.sclk ++
        (repeated 64 (clockBit c) ++ List.replicate (c.tCsh + 1 + 1 + c.tCss) true ++ repeated 64 (clockBit c)) ++
        List.replicate (c.tCsh + 1 + c.tFw + 2) true := by
  have hstrobe (y : Lines) : driveLevels .sclk y (strobeDrives c) = List.replicate (c.tFw + 2) y.sclk :=
    (untouched (strobeDrives_line_ne c (by decide))).1
  rw [fireDrives, driveLevels_append, driveLevels_append, hstrobe, sclk_channelDrives, sclk_channelDrives, linesAfter_append,
    linesAfter_channelDrives, linesAfter_channelDrives]
  simp only [Channel.select, Lines.set, List.append_assoc, replicate_append_replicate_append,
    List.replicate_append_replicate, Nat.add_assoc]

/-- SDATA in FIRE (rules R132 to R134). -/
theorem sdata_fireDrives :
    driveLevels .sdata x (fireDrives c m) =
      List.replicate (2 + c.tCss) x.sdata ++
        ((List.range 63).flatMap (fun k => List.replicate (bitPeriod c) (nozzleBit m k)) ++
          List.replicate (bitPeriod c + c.tCsh + 2 + c.tCss) (nozzleBit m 63) ++
          (List.range 63).flatMap (fun k => List.replicate (bitPeriod c) (nozzleBit m (64 + k)))) ++
        List.replicate (bitPeriod c + c.tCsh + c.tFw + 2) (nozzleBit m 127) := by
  have hstrobe (y : Lines) : driveLevels .sdata y (strobeDrives c) = List.replicate (c.tFw + 2) y.sdata :=
    (untouched (strobeDrives_line_ne c (by decide))).1
  rw [fireDrives, driveLevels_append, driveLevels_append, hstrobe, sdata_channelDrives, sdata_channelDrives, linesAfter_append,
    linesAfter_channelDrives, linesAfter_channelDrives]
  simp only [Channel.select, Lines.set, List.append_assoc, replicate_append_replicate_append,
    List.replicate_append_replicate, Nat.add_assoc, firstBits, List.flatMap_map, streamBit_eq_nozzleBit, Channel.number,
    Nat.mul_zero, Nat.zero_add, Nat.mul_one, Nat.reduceAdd]

/-! ## The edges (rules R132, R133) -/

theorem driveEdges_bitDrives (extra : Nat) (b : Bool) :
    driveEdges x (bitDrives c extra b) = [⟨x.csAN, x.csBN, b⟩] := by
  simp only [bitDrives, driveEdges_cons, linesEdge, Lines.set, Bool.and_false, Bool.not_false, Bool.and_true, if_true]
  rfl

/-- Each bit makes one rising edge, SDATA being the bit (rule R133). -/
theorem driveEdges_shiftDrives (b : Bool) (bs : List Bool) : ∀ x : Lines,
    driveEdges x (shiftDrives c bs b) = (bs ++ [b]).map (⟨x.csAN, x.csBN, ·⟩) := by
  induction bs with
  | nil => exact fun x => driveEdges_bitDrives c x c.tCsh b
  | cons a bs ih =>
    intro x
    rw [shiftDrives, List.flatMap_cons, List.append_assoc, driveEdges_append, driveEdges_bitDrives]
    exact congrArg _ (ih _)

/-- The 64 bits of a channel's stream (rule R132). -/
theorem firstBits_append (ch : Channel) : firstBits m ch ++ [streamBit m ch 63] = (List.range 64).map (streamBit m ch) := by
  rw [List.range_succ, List.map_append]
  rfl

theorem driveEdges_channelDrives (ch : Channel) :
    driveEdges x (channelDrives c m ch) =
      (List.range 64).map fun k =>
        ⟨(x.set ch.select false).csAN, (x.set ch.select false).csBN, streamBit m ch k⟩ := by
  have hselect : ch.select ≠ .sclk := by cases ch <;> decide
  rw [channelDrives, driveEdges_append, driveEdges_of_not_sclk hselect, driveEdges_of_not_sclk hselect,
    driveEdges_shiftDrives, firstBits_append, List.map_map]
  exact List.append_nil _

/-- With CHANNEL_B deselected before it, FIRE's edges are 64 with only CHANNEL_A selected and 64 with only CHANNEL_B
(rule R157(1)). -/
theorem driveEdges_fireDrives (h : x.csBN = true) :
    driveEdges x (fireDrives c m) =
      (List.range 64).map (fun k => ⟨false, true, nozzleBit m k⟩) ++
        (List.range 64).map (fun k => ⟨true, false, nozzleBit m (64 + k)⟩) := by
  have hstrobe (y : Lines) : driveEdges y (strobeDrives c) = [] := driveEdges_eq_nil (strobeDrives_line_ne c (by decide))
  rw [fireDrives, driveEdges_append, driveEdges_append, hstrobe, driveEdges_channelDrives, driveEdges_channelDrives,
    linesAfter_channelDrives, List.append_nil]
  simp only [streamBit_eq_nozzleBit, Channel.number, Channel.select, Lines.set, h, Nat.mul_zero, Nat.zero_add, Nat.mul_one]

end Sys2Proof.Machine
end

section
/-! SUPPORT. FIRE's run, segment by segment: the ready-wait, the schedule of its lines, the readback and its `done`
(spec/42_firing.md rules R147 to R152, R156). -/

namespace Sys2Proof.Machine

/-- The sequencer's part at FIRE's micro-op `q`, no wait left before it, with the lines `x`. -/
def SeqView.atFire (v : SeqView) (q : FirePc) (x : Lines) : SeqView :=
  { v with upc := .fire q, waitcnt := 0, lines := x }

/-- The cycle of a FIRE micro-op (rule R100). -/
theorem SeqView.next_atFire (v : SeqView) (q : FirePc) (x : Lines) (p : Pins) :
    (v.atFire q x).next p = (fireOp q ((v.atFire q x).withPins p)).view := by
  have hw : ((v.atFire q x).withPins p).waitcnt = 0 := rfl
  rw [SeqView.next, seqCycle, if_neg (by omega)]
  rfl

/-- A micro-op of FIRE and the wait after it, up to the next micro-op `r`. -/
theorem leads_fireOp {v w : SeqView} {q r : FirePc} {x y : Lines} {p : Nat → Pins} (n : Nat)
    (h : (fireOp q ((v.atFire q x).withPins (p 0))).view = { w.atFire r y with waitcnt := n }) :
    (v.atFire q x).Leads p (n + 1) (w.atFire r y) ((x, y) :: List.replicate n (y, y)) :=
  .of_op nofun ((v.next_atFire q x (p 0)).trans h) rfl nofun

/-! ## The schedule (rules R133, R147) -/

/-- From FIRE's micro-op `q`, whatever the lines and the input levels, the schedule `ds` is run, up to the micro-op `r`. -/
def SeqView.Follows (v : SeqView) (q : FirePc) (ds : List Drive) (r : FirePc) : Prop :=
  ∀ x p, (v.atFire q x).Leads p (duration ds) (v.atFire r (linesAfter x ds)) (driveTrace x ds)

theorem SeqView.Follows.trans {v : SeqView} {q r s : FirePc} {ds es : List Drive} (h : v.Follows q ds r)
    (h' : v.Follows r es s) : v.Follows q (ds ++ es) s := fun x p => by
  rw [duration_append, linesAfter_append, driveTrace_append]
  exact (h x p).trans (h' _ _)

/-- A micro-op that drives a line and waits. -/
theorem follows_of_drive {v : SeqView} {q r : FirePc} (d : Drive)
    (h : ∀ s : State, s.cfg = v.cfg → s.shiftBuf = v.shiftBuf →
      fireOp q s = (s.drive d.line d.level).goto (.fire r) d.hold) : v.Follows q [d] r := fun x p => by
  have hop := leads_fireOp (v := v) (w := v) (q := q) (r := r) (x := x) (y := x.set d.line d.level) (p := p) d.hold
    (by rw [h _ rfl rfl]; rfl)
  rw [driveTrace, driveTrace, List.append_nil]
  exact hop

section
variable (v : SeqView)

/-- One bit of SHIFT_CHANNEL, up to the micro-op `r` after it. -/
theorem follows_bit {ch : Channel} {k extra : Nat} {r : FirePc}
    (h : ∀ s : State, s.cfg = v.cfg →
      clockHighOp ch k s = (s.drive .sclk true).goto (.fire r) (v.cfg.tHi + extra)) :
    v.Follows (.clockLow ch k) (bitDrives v.cfg extra (streamBit v.shiftBuf ch k)) r :=
  have hlow : v.Follows (.clockLow ch k) [⟨.sclk, false, 0⟩] (.setData ch k) := follows_of_drive _ fun _ _ _ => rfl
  have hdata : v.Follows (.setData ch k) [⟨.sdata, streamBit v.shiftBuf ch k, v.cfg.tSu⟩] (.clockHigh ch k) :=
    follows_of_drive _ fun s hc hm => by rw [← hc, ← hm]; rfl
  have hhigh : v.Follows (.clockHigh ch k) [⟨.sclk, true, v.cfg.tHi + extra⟩] r :=
    follows_of_drive _ fun s hc _ => h s hc
  hlow.trans (hdata.trans hhigh)

/-- The first `n` bits of a channel. -/
theorem follows_bits (ch : Channel) {n : Nat} (hn : n ≤ 63) :
    v.Follows (.clockLow ch 0) ((List.range n).flatMap fun k => bitDrives v.cfg 0 (streamBit v.shiftBuf ch k))
      (.clockLow ch n) := by
  induction n with
  | zero => exact fun x p => .refl p _
  | succ n ih =>
    rw [List.range_succ, List.flatMap_append, List.flatMap_singleton]
    refine (ih (by omega)).trans (follows_bit v fun s hc => ?_)
    rw [clockHighOp, if_pos (by omega), hc]
    rfl

/-- SHIFT_CHANNEL, up to the micro-op `r` after it (rule R133). -/
theorem follows_channel {ch : Channel} {r : FirePc}
    (h : ∀ s : State, selectHighOp ch s = (s.drive ch.select true).goto (.fire r) 0) :
    v.Follows (.selectLow ch) (channelDrives v.cfg v.shiftBuf ch) r := by
  have hselect : v.Follows (.selectLow ch) [⟨ch.select, false, v.cfg.tCss⟩] (.clockLow ch 0) :=
    follows_of_drive _ fun s hc _ => by rw [← hc]; rfl
  have hlast : v.Follows (.clockLow ch 63) (bitDrives v.cfg v.cfg.tCsh (streamBit v.shiftBuf ch 63)) (.selectHigh ch) :=
    follows_bit v fun s hc => by rw [clockHighOp, if_neg (by decide), hc]
  have hdeselect : v.Follows (.selectHigh ch) [⟨ch.select, true, 0⟩] r := follows_of_drive _ fun s _ _ => h s
  have hshift := (follows_bits v ch (Nat.le_refl 63)).trans hlast
  rw [← List.flatMap_map] at hshift
  exact (hselect.trans hshift).trans hdeselect

/-- FIRE from the first chip select to the strobe's end (rules R147, R150, R151). -/
theorem follows_fire : v.Follows (.selectLow .a) (fireDrives v.cfg v.shiftBuf) .readBack :=
  have hstrobeLow : v.Follows .strobeLow [⟨.fireN, false, v.cfg.tFw⟩] .strobeHigh :=
    follows_of_drive _ fun s hc _ => by rw [← hc]; rfl
  have hstrobeHigh : v.Follows .strobeHigh [⟨.fireN, true, 0⟩] .readBack := follows_of_drive _ fun _ _ _ => rfl
  ((follows_channel v fun _ => rfl).trans (follows_channel v fun _ => rfl)).trans (hstrobeLow.trans hstrobeHigh)

end

/-! ## The ready-wait (rules R147, R148, R156) -/

/-- TIMEOUT of the latched command (rule R85). -/
def SeqView.timeout (v : SeqView) : Nat := (timeoutField v.cmdLatch).toNat

/-- The level the latched command awaits (rule R147). -/
def SeqView.want (v : SeqView) : Bool := waitModeField v.cmdLatch == 1

/-- The sequencer's part with READY_OK as the ready-wait leaves it. -/
def SeqView.waited (v : SeqView) (matched : Bool) : SeqView :=
  { v with acc := { v.acc with readyOk := v.acc.readyOk || matched } }

/-- The micro-op before the sample `attempt` of `timeout`: the sample, or after the last one the shift (rules R148, R149). -/
def samplePc (timeout attempt : Nat) : FirePc := if attempt ≤ timeout then .sampleReady attempt else .selectLow .a

/-- A sample that misses waits T_POLL, then the next sample or the shift follows (rules R148, R149). -/
theorem readySampleOp_miss {s : State} (attempt : Nat) (h : s.pins.ready ≠ s.latchWant) :
    readySampleOp attempt s = s.goto (.fire (samplePc s.latchTimeout (attempt + 1))) s.cfg.tPoll := by
  rw [readySampleOp, if_neg h, samplePc]
  by_cases hlast : attempt < s.latchTimeout
  · rw [if_pos hlast, if_pos (by omega)]
  · rw [if_neg hlast, if_neg (by omega)]

theorem readySampleOp_hit {s : State} (attempt : Nat) (h : s.pins.ready = s.latchWant) :
    readySampleOp attempt s =
      { s with acc := { s.acc with readyOk := true } }.goto (.fire (.selectLow .a)) 0 := by
  rw [readySampleOp, if_pos h]

theorem SeqView.waited_false (v : SeqView) : v.waited false = v := by
  rw [SeqView.waited, Bool.or_false]

/-- The ready-wait with `n` samples left takes the cycles rule R156 gives and drives no line. -/
theorem leads_readyWait (v : SeqView) (x : Lines) {n : Nat} : ∀ {attempt : Nat} {p : Nat → Pins},
    attempt + n = v.timeout + 1 →
    let w := readyWait v.cfg.tPoll v.want (fun j => (p j).ready) n
    (v.atFire (samplePc v.timeout attempt) x).Leads p w.1 ((v.waited w.2).atFire (.selectLow .a) x)
      (List.replicate w.1 (x, x)) := by
  induction n with
  | zero =>
    intro attempt p hn
    rw [samplePc, if_neg (by omega)]
    simp only [readyWait, SeqView.waited_false]
    exact .refl p _
  | succ n ih =>
    intro attempt p hn
    have hsample : samplePc v.timeout attempt = .sampleReady attempt := if_pos (by omega)
    rw [hsample]
    by_cases h : (p 0).ready = v.want
    · have hop : fireOp (.sampleReady attempt) ((v.atFire (.sampleReady attempt) x).withPins (p 0)) = _ :=
        readySampleOp_hit attempt h
      rw [readyWait_hit n h]
      refine leads_fireOp (w := v.waited true) 0 ?_
      rw [hop, SeqView.waited, Bool.or_true]
      rfl
    · have hop : fireOp (.sampleReady attempt) ((v.atFire (.sampleReady attempt) x).withPins (p 0)) = _ :=
        readySampleOp_miss attempt h
      have hmiss := leads_fireOp (v := v) (w := v) (r := samplePc v.timeout (attempt + 1)) (x := x) (y := x) (p := p)
        v.cfg.tPoll (by rw [hop]; rfl)
      have hrest := hmiss.trans (ih (attempt := attempt + 1) (by omega))
      rw [readyWait_miss n h]
      rw [← List.replicate_succ, List.replicate_append_replicate, Nat.add_comm v.cfg.tPoll 1] at hrest
      exact hrest

/-- FIRE's acceptance leaves the sequencer before its first micro-op, no line driven yet. -/
theorem acceptedFirst_atFire (s : State) {i : Instr} {q : FirePc} (h : firstPosition s.cfg s.pstate i = (.fire q, 0)) :
    (s.acceptedFirst i).view = (s.acceptedFirst i).view.atFire q s.lines := by
  rw [State.acceptedFirst, h]
  rfl

/-- The ready-wait of a FIRE that has one: the first sample, or with a TIMEOUT of 0 the shift, follows its acceptance. -/
theorem leads_acceptedWait (s : State) {i : Instr} {n : Nat} {m : BitVec 2} (hi : encode i = layoutF (BitVec.ofNat 16 n) m)
    (hn : timeoutOk n = true)
    (hfirst : firstPosition s.cfg s.pstate i = if n = 0 then (.fire (.selectLow .a), 0) else (.fire (.sampleReady 1), 0)) :
    let w := readyWait s.cfg.tPoll (m == 1) (fun j => (s.inputAt j).pins.ready) n
    let v := (s.acceptedFirst i).view
    v.Leads s.pinsAt w.1 ((v.waited w.2).atFire (.selectLow .a) s.lines) (List.replicate w.1 (s.lines, s.lines)) := by
  have htimeout : (s.acceptedFirst i).view.timeout = n := latchTimeout_eq hi hn
  have hwant : (s.acceptedFirst i).view.want = (m == 1) := by
    change (waitModeField (encode i) == 1) = _
    rw [hi, waitModeField_layoutF]
  have hpc : firstPosition s.cfg s.pstate i = (.fire (samplePc n 1), 0) := by
    rw [hfirst, samplePc]
    by_cases hzero : n = 0
    · rw [if_pos hzero, if_neg (by omega)]
    · rw [if_neg hzero, if_pos (by omega)]
  have h := leads_readyWait (s.acceptedFirst i).view s.lines (n := n) (attempt := 1) (p := s.pinsAt) (by omega)
  rw [htimeout, hwant, ← acceptedFirst_atFire s hpc] at h
  exact h

/-- The ready-wait of FIRE, in each of its three forms, leads from its acceptance to the shift (rules R147, R148, R156). -/
theorem leads_fireWait (s : State) {i : Instr} (hi : i.wf = true) (hfire : commandRoutine i = .fire) :
    let w := fireWait s.cfg i (fun j => (s.inputAt j).pins.ready)
    let v := (s.acceptedFirst i).view
    v.Leads s.pinsAt w.1 ((v.waited w.2).atFire (.selectLow .a) s.lines) (List.replicate w.1 (s.lines, s.lines)) := by
  cases i with
  | powerUp | powerDown | advance | home => cases hfire
  | fireNone n =>
    simp only [fireWait, SeqView.waited_false]
    exact .refl _ _
  | fireHigh n => exact leads_acceptedWait s (m := 1) rfl hi rfl
  | fireLow n => exact leads_acceptedWait s (m := 2) rfl hi rfl

/-! ## The readback and `done` (rules R147, R152) -/

/-- The sequencer's part with the levels sampled after the strobe. -/
def SeqView.readBack (v : SeqView) (after : Pins) : SeqView :=
  { v with acc := { v.acc with readyAfter := after.ready, faultAfter := after.fault } }

/-- The sequencer's part after FIRE's `done`, the lines being `x` and the levels sampled after the strobe `after`. -/
def SeqView.fired (v : SeqView) (x : Lines) (after : Pins) : SeqView :=
  { v.readBack after with
    upc := .idle
    waitcnt := 0
    lines := x
    result := doneResult (opcField v.cmdLatch)
      { rbValid := v.acc.rbValid, readyOk := v.acc.readyOk, readyAfter := after.ready, faultAfter := after.fault } }

/-- The last two cycles of FIRE drive no line: the sample in the first of them, `done` in the second. -/
theorem leads_fired (v : SeqView) (x : Lines) (p : Nat → Pins) :
    (v.atFire .readBack x).Leads p 2 (v.fired x (p 0)) (List.replicate 2 (x, x)) :=
  have hsample := leads_fireOp (v := v) (w := v.readBack (p 0)) (q := .readBack) (r := .finish) (x := x) (y := x) (p := p) 0 rfl
  have hdone : ((v.readBack (p 0)).atFire .finish x).Leads (fun j => p (1 + j)) 1 (v.fired x (p 0)) [(x, x)] :=
    .of_op (n := 0) nofun (SeqView.next_atFire _ _ _ _) rfl nofun
  hsample.trans hdone

/-! ## The whole run (rules R147, R156) -/

section
variable (s : State) {i : Instr} (hi : i.wf = true) (hfire : commandRoutine i = .fire)

/-- W and READY_OK of a FIRE accepted in `s`. -/
def State.fireWait (s : State) (i : Instr) : Nat × Bool := Machine.fireWait s.cfg i fun j => (s.inputAt j).pins.ready

/-- The levels sampled after the strobe. -/
def State.pinsAfter (s : State) (i : Instr) : Pins :=
  s.pinsAt ((s.fireWait i).1 + 2 * channelLength s.cfg + s.cfg.tFw + 2)

/-- The lines before and after each cycle of a FIRE accepted in `s`. -/
def State.fireTrace (s : State) (i : Instr) : List (Lines × Lines) :=
  let y := linesAfter s.lines (fireDrives s.cfg s.mask)
  List.replicate (s.fireWait i).1 (s.lines, s.lines) ++ driveTrace s.lines (fireDrives s.cfg s.mask) ++ List.replicate 2 (y, y)

include hi hfire

/-- FIRE's run, from the end of its acceptance cycle to its `done`. -/
theorem leads_fire :
    (s.acceptedFirst i).view.Leads (s.acceptedFirst i).pinsAt (fireLength s.cfg (s.fireWait i).1)
      (((s.acceptedFirst i).view.waited (s.fireWait i).2).fired (linesAfter s.lines (fireDrives s.cfg s.mask)) (s.pinsAfter i))
      (s.fireTrace i) := by
  have hbuf : (s.acceptedFirst i).shiftBuf = s.mask := if_pos hfire
  have hshift : ((s.acceptedFirst i).view.waited (s.fireWait i).2).Follows (.selectLow .a) (fireDrives s.cfg s.mask) .readBack := by
    rw [← hbuf]
    exact follows_fire _
  have hall := ((leads_fireWait s hi hfire).trans (hshift s.lines _)).trans (leads_fired _ _ _)
  have hlength : fireLength s.cfg (s.fireWait i).1 = (s.fireWait i).1 + duration (fireDrives s.cfg s.mask) + 2 := by
    rw [fireLength, duration_fireDrives]
    omega
  have hafter : s.pinsAfter i = s.pinsAt ((s.fireWait i).1 + duration (fireDrives s.cfg s.mask) + 0) := by
    rw [State.pinsAfter, duration_fireDrives]
    congr 1
    omega
  rw [hlength, hafter]
  exact hall

end

end Sys2Proof.Machine
end

section
/-! SUPPORT. FIRE whole: its completion, its clock edges and the levels of its five lines (spec/42_firing.md rules R147 to R157). -/

namespace Sys2Proof.Machine

/-! ## The RESULT of FIRE (rules R33, R34, R147) -/

section
variable (opc : BitVec 4) (f : DoneFields)

@[simp] theorem resultReadyAfter_doneResult : resultReadyAfter (doneResult opc f) = f.readyAfter := by
  simp only [resultReadyAfter, doneResult, BitVec.getLsbD_append]
  simp

@[simp] theorem resultFaultAfter_doneResult : resultFaultAfter (doneResult opc f) = f.faultAfter := by
  simp only [resultFaultAfter, doneResult, BitVec.getLsbD_append]
  simp

@[simp] theorem resultNoop_doneResult : resultNoop (doneResult opc f) = f.noop := by
  simp only [resultNoop, doneResult, BitVec.getLsbD_append]
  simp

end

/-! ## The acceptance of FIRE (rules R41, R107, R147) -/

section
variable {i : Instr} (hfire : commandRoutine i = .fire)
include hfire

/-- FIRE's word carries OPC 3 (rule R86). -/
theorem opcField_encode_fire : opcField (encode i) = 3 := by
  cases i with
  | fireNone | fireHigh | fireLow => exact opcField_layoutF _ _
  | powerUp | powerDown | advance | home => cases hfire

/-- FIRE starts with RB_VALID set exactly when it waits, every other accumulator 0 (rule R147). -/
theorem firstAcc_fire (p0 : PState) : firstAcc p0 i = { Acc.zero with rbValid := waitModeField (encode i) != 0 } := by
  cases i with
  | fireNone | fireHigh | fireLow =>
    rw [encode, waitModeField_layoutF]
    rfl
  | powerUp | powerDown | advance | home => cases hfire

/-- FIRE's acceptance latches its word, snapshots the mask and starts its routine with no wait (rule R107). -/
theorem acceptedFirst_fire (s : State) :
    s.acceptedFirst i =
      { s with
        cmdLatch := encode i
        shiftBuf := s.mask
        upc := (firstPosition s.cfg s.pstate i).1
        waitcnt := 0
        acc := { Acc.zero with rbValid := waitModeField (encode i) != 0 } } := by
  have hwait : (firstPosition s.cfg s.pstate i).2 = 0 := by
    cases i with
    | fireNone => rfl
    | fireHigh | fireLow => simp only [firstPosition]; split <;> rfl
    | powerUp | powerDown | advance | home => cases hfire
  have hpstate : acceptedPState s.pstate i = s.pstate := by
    cases i with
    | fireNone | fireHigh | fireLow => rfl
    | powerUp | powerDown | advance | home => cases hfire
  rw [State.acceptedFirst, State.accepted, hwait, hpstate, acceptedShiftBuf, if_pos hfire, firstAcc_fire hfire]
  rfl

end

/-! ## The three statements -/

/-- Settles O22: the run is the ready-wait, the schedule of both channels and the strobe, the readback and `done`. -/
theorem fireInReadyCompletes : Obligations.FireInReadyCompletes := by
  intro s i hb hp hi hfire w waits after
  have haccepted := acceptedFirst_fire hfire s
  refine ⟨s.acceptedFirst i, exec_acceptedFirst hb hi fun _ => hp, haccepted.trans (by rw [haccepted]; rfl), ?completes⟩
  refine completes_of_leads (leads_fire s hi hfire) rfl fun u hu => ?_
  rw [haccepted, linesAfter_fireDrives] at hu
  simp only [State.view, SeqView.fired, SeqView.readBack, SeqView.waited, SeqView.mk.injEq] at hu
  obtain ⟨hcfg, hlines, hpstate, hresult, hstepcount, -, -, hshiftBuf, hcmdLatch, -⟩ := hu
  refine ⟨hcfg, hpstate.trans hp, hstepcount, hshiftBuf, hcmdLatch, ?_⟩
  rw [hresult, opcField_encode_fire hfire]
  simp only [resultErr_doneResult, resultOpc_doneResult, resultRbValid_doneResult, resultReadyOk_doneResult,
    resultReadyTimeout_doneResult, resultReadyAfter_doneResult, resultFaultAfter_doneResult, resultEndstopHit_doneResult,
    resultNoop_doneResult, resultHomeExhausted_doneResult, true_and]
  exact ⟨rfl, rfl, rfl, rfl, rfl, rfl, hlines⟩

/-- Settles O24: the schedule's edges are the mask's bits in nozzle order, and neither the ready-wait nor the last two cycles move
SCLK. -/
theorem fireShiftsTheMaskOnItsClockEdges : Obligations.FireShiftsTheMaskOnItsClockEdges := by
  intro s t i hb hp hi hfire hs ht n hr
  cases ht.symm.trans (exec_acceptedFirst hb hi fun _ => hp)
  have hdeselected : s.lines.csBN = true :=
    congrArg SerialLevels.csBN ((serialInv_of_not_fire (routine_ne_fire_of_idle hb)).1 hs)
  have hgather := gather_of_leads linesEdge (leads_fire s hi hfire) hr
  rw [State.fireTrace, List.flatMap_append, List.flatMap_append, flatMap_linesEdge_replicate, flatMap_linesEdge_replicate,
    List.nil_append, List.append_nil] at hgather
  exact hgather.trans (driveEdges_fireDrives s.cfg s.mask s.lines hdeselected)

/-- A line's levels in a FIRE, from those in the schedule: the ready-wait before it and the two cycles after it move no line. -/
theorem levelTrace_fire {s : State} {i : Instr} {l : Line} {k n : Nat} {mid : List Bool} {b : Bool} (hi : i.wf = true)
    (hfire : commandRoutine i = .fire) (hr : (s.acceptedFirst i).RunsFor (fireLength s.cfg (s.fireWait i).1))
    (h : driveLevels l s.lines (fireDrives s.cfg s.mask) = List.replicate k (s.lines.get l) ++ mid ++ List.replicate n b)
    (hafter : (linesAfter s.lines (fireDrives s.cfg s.mask)).get l = b) :
    levelTrace l (fireLength s.cfg (s.fireWait i).1) (s.acceptedFirst i) =
      List.replicate ((s.fireWait i).1 + k) (s.lines.get l) ++ mid ++ List.replicate (n + 2) b := by
  rw [levelTrace_of_leads l (leads_fire s hi hfire) hr, State.fireTrace, List.map_append, List.map_append,
    List.map_replicate, List.map_replicate, ← driveLevels, h, hafter]
  simp only [List.append_assoc, replicate_append_replicate_append, List.replicate_append_replicate]

/-- Settles O25: each line's levels in the schedule, after the ready-wait and before the last two cycles. -/
theorem fireLineTiming : Obligations.FireLineTiming := by
  intro s t i hb hp hi hfire ht w l c bits data hr
  cases ht.symm.trans (exec_acceptedFirst hb hi fun _ => hp)
  have after (l : Line) := congrArg (Lines.get · l) (linesAfter_fireDrives s.cfg s.mask s.lines)
  have hA := levelTrace_fire hi hfire hr (csAN_fireDrives s.cfg s.mask s.lines) (after .csAN)
  have hB := levelTrace_fire hi hfire hr (csBN_fireDrives s.cfg s.mask s.lines) (after .csBN)
  have hclk := levelTrace_fire hi hfire hr (sclk_fireDrives s.cfg s.mask s.lines) (after .sclk)
  have hdata := levelTrace_fire hi hfire hr (sdata_fireDrives s.cfg s.mask s.lines) (after .sdata)
  have hfireN := levelTrace_fire hi hfire hr (fireN_fireDrives s.cfg s.mask s.lines) (after .fireN)
  rw [← Nat.add_assoc] at hclk hdata
  refine ⟨hA, hB, ?sclk, ?sdata, hfireN⟩
  case sclk =>
    simp only [List.append_assoc] at hclk ⊢
    exact hclk
  case sdata =>
    simp only [List.append_assoc] at hdata ⊢
    exact hdata

end Sys2Proof.Machine
end

section
/-! SUPPORT. The rails and the head reset never change in one cycle, and what the power invariant makes of it
(spec/43_power.md rules R173, R185). -/

namespace Sys2Proof.Machine

/-- Both rails keep their levels, or the head reset keeps its level. -/
def KeepsRailsOrReset (s t : State) : Prop :=
  (t.lines.rail1En = s.lines.rail1En ∧ t.lines.rail2En = s.lines.rail2En) ∨ t.lines.headReset = s.lines.headReset

/-- A micro-op of a power routine writes the rails or the head reset, not both (rules R172, R180). -/
theorem seqCycle_keepsRailsOrReset (s : State) : KeepsRailsOrReset s (seqCycle s) := by
  by_cases hw : 0 < s.waitcnt
  · rw [seqCycle, if_pos hw]
    exact .inr rfl
  cases hu : s.upc with
  | powerUp p =>
    rw [seqCycle, if_neg hw, microOp, hu]
    cases p with
    | setRails => exact .inr rfl
    | releaseReset | finish => exact .inl ⟨rfl, rfl⟩
  | powerDown p =>
    rw [seqCycle, if_neg hw, microOp, hu]
    cases p with
    | cutRails => exact .inr rfl
    | assertReset | finish => exact .inl ⟨rfl, rfl⟩
  | idle | fire | advance | home =>
    have hup : s.routine ≠ .powerUp := by simp [State.routine, hu, Upc.routine]
    have hdown : s.routine ≠ .powerDown := by simp [State.routine, hu, Upc.routine]
    obtain ⟨-, -, -, hreset⟩ := seqCycle_samePower hup hdown
    exact .inr hreset

/-- Outside RST no cycle changes both the rails and the head reset: the host drives no line. -/
theorem step_keepsRailsOrReset {s t : State} (h : step s = .next t) (hr : s.input.rst = false) :
    KeepsRailsOrReset s t := by
  obtain ⟨-, hv⟩ | ⟨-, hv⟩ | ⟨-, w, r, -, hv⟩ | ⟨-, w, i, u, n, a, -, -, -, hv⟩ := step_active_cases h hr
  all_goals
    have hlines : t.lines = _ := congrArg SeqView.lines hv
    rw [KeepsRailsOrReset, hlines]
  · exact seqCycle_keepsRailsOrReset s
  · exact .inr rfl
  · exact .inr rfl
  · exact .inr rfl

/-- The two rails stand at one level. -/
theorem PowerInv.rails_eq {s : State} (hs : PowerInv s) : s.lines.rail1En = s.lines.rail2En := by
  obtain ⟨h1, h2, -⟩ | ⟨h1, h2, -⟩ | ⟨h1, h2, -⟩ := hs.head <;> exact h1.trans h2.symm

/-- The head reset is released only while both rails are on (rule R185(1)). -/
theorem PowerInv.rails_on_of_released {s : State} (hs : PowerInv s) (h : s.lines.headReset = false) :
    s.lines.rail1En = true ∧ s.lines.rail2En = true := by
  obtain ⟨-, -, hr⟩ | ⟨-, -, hr⟩ | ⟨h1, h2, -⟩ := hs.head
  · exact absurd (h.symm.trans hr) nofun
  · exact absurd (h.symm.trans hr) nofun
  · exact ⟨h1, h2⟩

/-- Settles O51: a cycle that changes the rails leaves the head reset, and with the reset released both ends of the cycle have the
rails on. -/
theorem railsChangeOnlyUnderReset : Obligations.RailsChangeOnlyUnderReset := by
  intro s t hs h hr hchange
  have ht : PowerInv t := hs.step h
  obtain ⟨h1, h2⟩ | hreset := step_keepsRailsOrReset h hr
  · simp [h1, h2] at hchange
  cases hs0 : s.lines.headReset with
  | true => exact ⟨rfl, hreset.trans hs0, ht.rails_eq⟩
  | false =>
    obtain ⟨s1, s2⟩ := hs.rails_on_of_released hs0
    obtain ⟨t1, t2⟩ := ht.rails_on_of_released (hreset.trans hs0)
    simp [s1, s2, t1, t2] at hchange

end Sys2Proof.Machine
end

section
/-! SUPPORT. A routine's run at any position of the sequencer: a wait, a micro-op, and PSTATE along the run
(spec/40_sequencer.md rules R100, R102, spec/10_state.md rule R26). -/

namespace Sys2Proof.Machine

/-- The sequencer's part at the position `q`, no wait left before it, with the lines `x`. -/
def SeqView.atOp (v : SeqView) (q : Upc) (x : Lines) : SeqView := { v with upc := q, waitcnt := 0, lines := x }

/-- The cycle of a micro-op (rule R100). -/
theorem SeqView.next_atOp (v : SeqView) (q : Upc) (x : Lines) (p : Pins) :
    (v.atOp q x).next p = (microOp ((v.atOp q x).withPins p)).view := by
  have hw : ((v.atOp q x).withPins p).waitcnt = 0 := rfl
  rw [SeqView.next, seqCycle, if_neg (by omega)]

/-- A micro-op and the wait after it, up to the next micro-op `r` (rules R100, R102). -/
theorem leads_microOp {v w : SeqView} {q r : Upc} {x y : Lines} {p : Nat → Pins} (n : Nat) (hq : q ≠ .idle)
    (hr : r ≠ .idle) (h : (microOp ((v.atOp q x).withPins (p 0))).view = { w.atOp r y with waitcnt := n }) :
    (v.atOp q x).Leads p (n + 1) (w.atOp r y) ((x, y) :: List.replicate n (y, y)) :=
  .of_op hq ((v.next_atOp q x (p 0)).trans h) rfl fun _ => hr

/-- A wait before a micro-op moves no line (rule R102). -/
theorem leads_wait (v : SeqView) {q : Upc} (x : Lines) (p : Nat → Pins) (n : Nat) (hq : q ≠ .idle) :
    SeqView.Leads p n { v.atOp q x with waitcnt := n } (v.atOp q x) (List.replicate n (x, x)) where
  run := SeqView.run_wait rfl
  busy j hj := by
    rw [SeqView.run_waiting (Nat.le_of_lt hj)]
    exact hq
  trace := by
    rw [SeqView.gather_wait (n := n) rfl, List.flatten_replicate_singleton]
    rfl

/-! ## PSTATE along a run (rules R26, R105) -/

/-- The sequencer writes PSTATE only at a `done`. -/
theorem seqCycle_pstate_or_idle (s : State) : (seqCycle s).pstate = s.pstate ∨ (seqCycle s).upc = .idle := by
  have done_idle {q : Upc} (hat : s.AtOp q) (hq : ∀ u : State, u.upc = q → (microOp u).upc = .idle) :
      (seqCycle s).upc = .idle := by
    obtain ⟨hu, hw⟩ := hat
    rw [seqCycle, if_neg (by omega)]
    exact hq s hu
  obtain h | ⟨hat, -⟩ | ⟨hat, -⟩ := seqCycle_pstate s
  · exact .inl h
  · exact .inr (done_idle hat fun u hu => by rw [microOp, hu]; rfl)
  · exact .inr (done_idle hat fun u hu => by rw [microOp, hu]; rfl)

/-- While the routine runs on, PSTATE stands. -/
theorem SeqView.run_pstate {v : SeqView} {p : Nat → Pins} {j : Nat} (hb : ∀ k ≤ j, (v.run p k).upc ≠ .idle) :
    (v.run p j).pstate = v.pstate := by
  induction j with
  | zero => rfl
  | succ j ih =>
    have hsucc : v.run p (j + 1) = (v.run p j).next (p j) := SeqView.run_add
    have hj : (v.run p j).pstate = v.pstate := ih fun k hk => hb k (by omega)
    have hbusy := hb (j + 1) (Nat.le_refl _)
    rw [hsucc] at hbusy ⊢
    obtain h | h := seqCycle_pstate_or_idle ((v.run p j).withPins (p j))
    · exact h.trans hj
    · exact absurd h hbusy

/-- Before each cycle of a routine's run PSTATE is what the routine's acceptance made it. -/
theorem pstate_of_leads {t : State} {n : Nat} {w : SeqView} {tr : List (Lines × Lines)}
    (h : t.view.Leads t.pinsAt n w tr) (hr : t.RunsFor n) :
    ∀ j < n, ∃ u, runCycles j t = .next u ∧ u.pstate = t.pstate := fun j hj => by
  obtain ⟨u, hu, hv, -⟩ := runCycles_view (fun k hk => hr k (by omega)) fun k hk => h.busy k (Nat.lt_trans hk hj)
  have hp : u.pstate = (t.view.run t.pinsAt j).pstate := congrArg SeqView.pstate hv
  exact ⟨u, hu, hp.trans (SeqView.run_pstate fun k hk => h.busy k (by omega))⟩

end Sys2Proof.Machine
end

section
/-! SUPPORT. The runs of POWER_UP and POWER_DOWN, from the end of the acceptance cycle to `done`, and the levels of the power lines
in them (spec/43_power.md rules R172 to R175, R180 to R182). -/

namespace Sys2Proof.Machine

/-- The sequencer's part after the `done` of a power routine that leaves PSTATE at `r`, the lines being `x` (rules R105, R172,
R180). -/
def SeqView.powerDone (v : SeqView) (x : Lines) (r : PState) : SeqView :=
  { v.atOp .idle x with pstate := r, result := doneResult (opcField v.cmdLatch) { noop := v.acc.noop } }

/-- The lines with both rails at one level (rules R173, R180). -/
def Lines.setRails (x : Lines) (b : Bool) : Lines := (x.set .rail1En b).set .rail2En b

/-- The lines before and after each cycle of a power routine: `x` for `m` cycles, then `y` from a first micro-op on with a wait of
`a` cycles, then `z` from a second one on with a wait of `b` cycles, and `done`. -/
def powerTrace (m a b : Nat) (x y z : Lines) : List (Lines × Lines) :=
  List.replicate m (x, x) ++ (x, y) :: List.replicate a (y, y) ++ (y, z) :: List.replicate b (z, z) ++ [(z, z)]

/-! ## The runs (rules R172, R175, R180, R182) -/

section
variable (v : SeqView) (x : Lines) (p : Nat → Pins)

/-- The `done` of POWER_UP (rules R172, R176). -/
theorem leads_powerUpDone {r : PState} (h : (if v.acc.noop then v.pstate else .ready) = r) :
    (v.atOp (.powerUp .finish) x).Leads p 1 (v.powerDone x r) [(x, x)] := by
  subst h
  exact .of_op (n := 0) nofun (v.next_atOp _ x (p 0)) rfl nofun

/-- The `done` of POWER_DOWN (rules R180, R183). -/
theorem leads_powerDownDone {r : PState} (h : (if v.acc.noop then v.pstate else .off) = r) :
    (v.atOp (.powerDown .finish) x).Leads p 1 (v.powerDone x r) [(x, x)] := by
  subst h
  exact .of_op (n := 0) nofun (v.next_atOp _ x (p 0)) rfl nofun

/-- POWER_UP from OFF: the first settle delay, the rails, the reset's release, `done` (rule R172). -/
theorem leads_powerUp (hn : v.acc.noop = false) :
    SeqView.Leads p (powerUpLength v.cfg) { v.atOp (.powerUp .setRails) x with waitcnt := v.cfg.tPu1 }
      (v.powerDone ((x.setRails true).set .headReset false) .ready)
      (powerTrace v.cfg.tPu1 v.cfg.tPu2 v.cfg.tPu3 x (x.setRails true) ((x.setRails true).set .headReset false)) := by
  have hlength : powerUpLength v.cfg = v.cfg.tPu1 + (v.cfg.tPu2 + 1) + (v.cfg.tPu3 + 1) + 1 := by
    rw [powerUpLength]
    omega
  have hwait := leads_wait v (q := .powerUp .setRails) x p v.cfg.tPu1 nofun
  have hrails {p} := leads_microOp (v := v) (w := v) (q := .powerUp .setRails) (r := .powerUp .releaseReset) (x := x)
    (y := x.setRails true) (p := p) v.cfg.tPu2 nofun nofun rfl
  have hrelease {p} := leads_microOp (v := v) (w := v) (q := .powerUp .releaseReset) (r := .powerUp .finish)
    (x := x.setRails true) (y := (x.setRails true).set .headReset false) (p := p) v.cfg.tPu3 nofun nofun rfl
  have hdone {p} := leads_powerUpDone v ((x.setRails true).set .headReset false) p (r := .ready) (by rw [hn]; rfl)
  rw [hlength]
  exact ((hwait.trans hrails).trans hrelease).trans hdone

/-- POWER_DOWN from READY: the reset's assertion, the rails, `done` (rule R180). -/
theorem leads_powerDown (hn : v.acc.noop = false) :
    (v.atOp (.powerDown .assertReset) x).Leads p (powerDownLength v.cfg)
      (v.powerDone ((x.set .headReset true).setRails false) .off)
      (powerTrace 0 v.cfg.tPd1 v.cfg.tPd2 x (x.set .headReset true) ((x.set .headReset true).setRails false)) := by
  have hlength : powerDownLength v.cfg = v.cfg.tPd1 + 1 + (v.cfg.tPd2 + 1) + 1 := by
    rw [powerDownLength]
    omega
  have hassert := leads_microOp (v := v) (w := v) (q := .powerDown .assertReset) (r := .powerDown .cutRails) (x := x)
    (y := x.set .headReset true) (p := p) v.cfg.tPd1 nofun nofun rfl
  have hcut {p} := leads_microOp (v := v) (w := v) (q := .powerDown .cutRails) (r := .powerDown .finish)
    (x := x.set .headReset true) (y := (x.set .headReset true).setRails false) (p := p) v.cfg.tPd2 nofun nofun rfl
  have hdone {p} := leads_powerDownDone v ((x.set .headReset true).setRails false) p (r := .off) (by rw [hn]; rfl)
  rw [hlength]
  exact (hassert.trans hcut).trans hdone

end

/-! ## The levels (rules R173, R174, R181) -/

section
variable {l : Line} {x y z : Lines} (m a b : Nat)

/-- A line's level before the first micro-op, from it on, and from the second on. -/
theorem levels_powerTrace (l : Line) (x y z : Lines) :
    ((powerTrace m a b x y z).map fun xy => xy.2.get l) =
      List.replicate m (x.get l) ++ List.replicate (a + 1) (y.get l) ++ List.replicate (b + 2) (z.get l) := by
  simp only [powerTrace, List.map_append, List.map_cons, List.map_replicate, List.append_assoc, List.cons_append,
    ← List.replicate_succ', List.replicate_succ (n := a), List.replicate_succ (n := b + 1)]

/-- A line the first micro-op leaves keeps its level up to the second. -/
theorem levels_powerTrace_of_late (h : y.get l = x.get l) :
    ((powerTrace m a b x y z).map fun xy => xy.2.get l) =
      List.replicate (m + a + 1) (x.get l) ++ List.replicate (b + 2) (z.get l) := by
  rw [levels_powerTrace, h, List.replicate_append_replicate, Nat.add_assoc]

/-- A line the second micro-op leaves has its new level from the first on. -/
theorem levels_powerTrace_of_early (h : z.get l = y.get l) :
    ((powerTrace m a b x y z).map fun xy => xy.2.get l) =
      List.replicate m (x.get l) ++ List.replicate (a + b + 3) (y.get l) := by
  rw [levels_powerTrace, h, List.append_assoc, List.replicate_append_replicate]
  congr 2
  omega

end

end Sys2Proof.Machine
end

section
/-! SUPPORT. POWER_UP and POWER_DOWN whole: acceptance, run and end, in the state they act on and in the state they are a no-op in
(spec/43_power.md rules R172 to R183). -/

namespace Sys2Proof.Machine

/-- The acceptance of a command other than FIRE latches its word and starts its routine (rule R107). -/
theorem accepted_of_not_fire (s : State) {i : Instr} (hi : commandRoutine i ≠ .fire) (q : Upc) (n : Nat) (a : Acc) :
    s.accepted i q n a =
      { s with pstate := acceptedPState s.pstate i, cmdLatch := encode i, upc := q, waitcnt := n, acc := a } := by
  rw [State.accepted, acceptedShiftBuf, if_neg hi]
  rfl

/-- RESULT of POWER_UP: OPC 1, NOOP as given (rules R33, R175, R176). -/
theorem doneResult_powerUp (noop : Bool) :
    doneResult (opcField (encode .powerUp)) { noop := noop } = if noop then 0x00002010 else 0x00000010 := by
  cases noop <;> decide

/-- RESULT of POWER_DOWN: OPC 2, NOOP as given (rules R33, R182, R183). -/
theorem doneResult_powerDown (noop : Bool) :
    doneResult (opcField (encode .powerDown)) { noop := noop } = if noop then 0x00002020 else 0x00000020 := by
  cases noop <;> decide

/-- What a power routine's `done` leaves, RESULT being `w`. -/
theorem fields_of_powerDone {u : State} {v : SeqView} {x : Lines} {r : PState} {w : Word}
    (hw : doneResult (opcField v.cmdLatch) { noop := v.acc.noop } = w) (h : u.view = v.powerDone x r) :
    u.cfg = v.cfg ∧ u.pstate = r ∧ u.result = w ∧ u.stepcount = v.stepcount ∧ u.shiftBuf = v.shiftBuf ∧
    u.cmdLatch = v.cmdLatch ∧ u.lines = x := by
  simp only [State.view, SeqView.powerDone, SeqView.atOp, SeqView.mk.injEq] at h
  obtain ⟨hcfg, hlines, hpstate, hresult, hstepcount, -, -, hshiftBuf, hcmdLatch, -⟩ := h
  exact ⟨hcfg, hpstate, hresult.trans hw, hstepcount, hshiftBuf, hcmdLatch, hlines⟩

/-! ## The four statements -/

/-- Settles O18: the run is the first settle delay, the rails, the reset's release and `done`, with PSTATE standing up to it. -/
theorem powerUpFromOffCompletes : Obligations.PowerUpFromOffCompletes := by
  intro s hb hp
  let t := s.accepted .powerUp (.powerUp .setRails) s.cfg.tPu1 Acc.zero
  have hpstate : acceptedPState s.pstate .powerUp = .railsEnabling := if_pos hp
  have haccepted : t = _ := accepted_of_not_fire s (i := .powerUp) nofun _ _ _
  rw [hpstate] at haccepted
  have hrun := leads_powerUp t.view s.lines t.pinsAt rfl
  refine ⟨t, exec_powerUp_start hb (by simp [hp]) s.acc, haccepted,
    completes_of_leads hrun rfl fun u => fields_of_powerDone (doneResult_powerUp false), fun hr => ?levels⟩
  case levels =>
    have hrail1 := (levelTrace_of_leads .rail1En hrun hr).trans (levels_powerTrace_of_early _ _ _ rfl)
    have hrail2 := (levelTrace_of_leads .rail2En hrun hr).trans (levels_powerTrace_of_early _ _ _ rfl)
    have hreset := (levelTrace_of_leads .headReset hrun hr).trans (levels_powerTrace_of_late _ _ _ rfl)
    exact ⟨hrail1, hrail2, hreset, hpstate ▸ pstate_of_leads hrun hr⟩

/-- Settles O19: the routine is its `done` alone. -/
theorem powerUpInReadyIsANoop : Obligations.PowerUpInReadyIsANoop := by
  intro s hb hp
  let t := s.accepted .powerUp (.powerUp .finish) 0 { Acc.zero with noop := true }
  have hpstate : acceptedPState s.pstate .powerUp = s.pstate := if_neg (by simp [hp])
  have haccepted : t = _ := accepted_of_not_fire s (i := .powerUp) nofun _ _ _
  rw [hpstate] at haccepted
  have hrun := leads_powerUpDone t.view s.lines t.pinsAt (r := .ready) (hpstate.trans hp)
  exact ⟨t, exec_powerUp_noop hb hp s.acc, haccepted,
    completes_of_leads hrun rfl fun u => fields_of_powerDone (doneResult_powerUp true)⟩

/-- Settles O20: the run is the reset's assertion, the rails and `done`, with PSTATE standing up to it. -/
theorem powerDownFromReadyCompletes : Obligations.PowerDownFromReadyCompletes := by
  intro s hb hp
  let t := s.accepted .powerDown (.powerDown .assertReset) 0 Acc.zero
  have hpstate : acceptedPState s.pstate .powerDown = .resetAsserting := if_pos hp
  have haccepted : t = _ := accepted_of_not_fire s (i := .powerDown) nofun _ _ _
  rw [hpstate] at haccepted
  have hrun := leads_powerDown t.view s.lines t.pinsAt rfl
  refine ⟨t, exec_powerDown_start hb (by simp [hp]) s.acc, haccepted,
    completes_of_leads hrun rfl fun u => fields_of_powerDone (doneResult_powerDown false), fun hr => ?levels⟩
  case levels =>
    have hreset := (levelTrace_of_leads .headReset hrun hr).trans (levels_powerTrace_of_early _ _ _ rfl)
    have hrail1 := (levelTrace_of_leads .rail1En hrun hr).trans (levels_powerTrace_of_late _ _ _ rfl)
    have hrail2 := (levelTrace_of_leads .rail2En hrun hr).trans (levels_powerTrace_of_late _ _ _ rfl)
    rw [Nat.zero_add] at hrail1 hrail2
    exact ⟨hreset, hrail1, hrail2, hpstate ▸ pstate_of_leads hrun hr⟩

/-- Settles O21: the routine is its `done` alone. -/
theorem powerDownInOffIsANoop : Obligations.PowerDownInOffIsANoop := by
  intro s hb hp
  let t := s.accepted .powerDown (.powerDown .finish) 0 { Acc.zero with noop := true }
  have hpstate : acceptedPState s.pstate .powerDown = s.pstate := if_neg (by simp [hp])
  have haccepted : t = _ := accepted_of_not_fire s (i := .powerDown) nofun _ _ _
  rw [hpstate] at haccepted
  have hrun := leads_powerDownDone t.view s.lines t.pinsAt (r := .off) (hpstate.trans hp)
  exact ⟨t, exec_powerDown_noop hb hp s.acc, haccepted,
    completes_of_leads hrun rfl fun u => fields_of_powerDone (doneResult_powerDown true)⟩

end Sys2Proof.Machine
end

section
/-! SUPPORT. MOTOR_STEP and MOTOR_EN (spec/44_motor.md rules R191, R192, R195): each micro-op of a motor routine takes its
position's levels to the next one's, and nothing else drives MOTOR_STEP. -/

namespace Sys2Proof.Machine

/-! ## The invariant (rules R191, R195) -/

/-- The invariant speaks of the sequencer's part of the state only. -/
theorem MotorInv.congr {s t : State} (h : s.view = t.view) (hs : MotorInv s) : MotorInv t := by
  have hp : MotorInv (s.view.withPins s.pins) := hs
  rw [h] at hp
  exact hp

/-- Outside the motor routines the invariant is that MOTOR_STEP is 0. -/
theorem motorInv_of_not_motor {s : State} (hadvance : s.routine ≠ .advance) (hhome : s.routine ≠ .home) :
    MotorInv s ↔ s.lines.motorStep = false := by
  unfold MotorInv
  cases hu : s.upc with
  | advance p => exact absurd (congrArg Upc.routine hu) hadvance
  | home p => exact absurd (congrArg Upc.routine hu) hhome
  | idle | powerUp | powerDown | fire => rfl

theorem motorInv_idle {s : State} (hb : s.busy = false) : MotorInv s ↔ s.lines.motorStep = false :=
  motorInv_of_not_motor (fun h => by simp [State.busy, h] at hb) (fun h => by simp [State.busy, h] at hb)

/-- One micro-op of ADVANCE: it steps between its MOTOR_EN := 1 and its MOTOR_EN := 0 (rule R193). -/
theorem motorInv_advanceOp {s : State} {p : AdvancePc} (hu : s.upc = .advance p) (hs : MotorInv s) :
    MotorInv (advanceOp p s) := by
  unfold MotorInv at hs
  rw [hu] at hs
  cases p with
  | setDir | finish => exact hs
  | enable => exact ⟨rfl, hs⟩
  | stepHigh i =>
    obtain ⟨hen, -⟩ := hs
    exact ⟨hen, rfl⟩
  | stepLow i =>
    obtain ⟨hen, -⟩ := hs
    simp only [advanceOp, advanceStepLowOp]
    split
    · exact ⟨hen, rfl⟩
    · cases s.latchKeep
      · exact ⟨hen, rfl⟩
      · rfl
  | disable =>
    obtain ⟨-, hlow⟩ := hs
    exact hlow

/-- HOME leaves its loop with the driver enabled and MOTOR_STEP at 0. -/
theorem motorInv_homeExit {s : State} (a : Acc) (hs : s.lines.motorEn = true ∧ s.lines.motorStep = false) :
    MotorInv ({ s with acc := a }.goto (.home (homeExit s)) 0) := by
  unfold homeExit
  cases s.latchKeep
  · exact hs
  · exact hs.right

/-- One micro-op of HOME: it steps and samples between its MOTOR_EN := 1 and its MOTOR_EN := 0 (rule R203). -/
theorem motorInv_homeOp {s : State} {p : HomePc} (hu : s.upc = .home p) (hs : MotorInv s) : MotorInv (homeOp p s) := by
  unfold MotorInv at hs
  rw [hu] at hs
  cases p with
  | setDir | finish => exact hs
  | enable => exact ⟨rfl, hs⟩
  | stepHigh i | stepLow i =>
    obtain ⟨hen, -⟩ := hs
    exact ⟨hen, rfl⟩
  | sampleEndstop i =>
    simp only [homeOp, homeSampleOp]
    split
    · exact motorInv_homeExit _ hs
    · split
      · exact hs
      · exact motorInv_homeExit _ hs
  | disable =>
    obtain ⟨-, hlow⟩ := hs
    exact hlow

/-- No routine but ADVANCE and HOME writes MOTOR_STEP ("Lines written" of rules R147, R172, R180). -/
theorem motorStep_not_mem_routineLines {r : Routine} (hadvance : r ≠ .advance) (hhome : r ≠ .home) :
    Line.motorStep ∉ routineLines r := by
  cases r with
  | advance => exact absurd rfl hadvance
  | home => exact absurd rfl hhome
  | idle | powerUp | powerDown | fire => decide

theorem motorInv_seqCycle {s : State} (hs : MotorInv s) : MotorInv (seqCycle s) := by
  by_cases hw : 0 < s.waitcnt
  · rw [seqCycle, if_pos hw]
    exact hs
  cases hu : s.upc with
  | advance p =>
    rw [seqCycle, if_neg hw, microOp, hu]
    exact motorInv_advanceOp hu hs
  | home p =>
    rw [seqCycle, if_neg hw, microOp, hu]
    exact motorInv_homeOp hu hs
  | idle | powerUp | powerDown | fire =>
    have hadvance : s.routine ≠ .advance := by simp [State.routine, hu, Upc.routine]
    have hhome : s.routine ≠ .home := by simp [State.routine, hu, Upc.routine]
    have hlow : (seqCycle s).lines.motorStep = false :=
      (seqCycle_lines s _ (motorStep_not_mem_routineLines hadvance hhome)).trans
        ((motorInv_of_not_motor hadvance hhome).1 hs)
    obtain hsame | ⟨hidle, -⟩ := seqCycle_routine s
    · exact (motorInv_of_not_motor (hsame ▸ hadvance) (hsame ▸ hhome)).2 hlow
    · exact (motorInv_idle hidle).2 hlow

/-- A command starts with MOTOR_STEP at 0: no first micro-op is within a pulse. -/
theorem motorInv_acceptedFirst {s : State} (i : Instr) (hl : s.lines.motorStep = false) : MotorInv (s.acceptedFirst i) := by
  cases i with
  | fireNone | home => exact hl
  | powerUp | powerDown | fireHigh | fireLow | advance =>
    simp only [State.acceptedFirst, firstPosition]
    split <;> exact hl

theorem motorInv_exec {s t : State} {w : Word} {i : Instr} (hb : s.busy = false) (hd : decode w = .ok i)
    (hs : MotorInv s) (h : exec i s = .next t) : MotorInv t := by
  obtain rfl | ⟨hp, -⟩ := exec_idle_next hb h
  · exact hs
  · cases h.symm.trans (exec_acceptedFirst hb (wf_of_decode hd) hp)
    exact motorInv_acceptedFirst i ((motorInv_idle hb).1 hs)

theorem MotorInv.step {s t : State} (hs : MotorInv s) (h : step s = .next t) : MotorInv t :=
  step_keeps (fun _ _ => MotorInv.congr) (fun _ => rfl) (fun _ _ => motorInv_seqCycle) (fun _ _ _ _ hi => hi)
    (fun _ _ _ _ => motorInv_exec) hs h

/-- MOTOR_STEP is 1 only within a pulse, and there the driver is enabled (rules R191, R195(3), (4)). -/
theorem MotorInv.enabled_of_high {s : State} (hs : MotorInv s) (hhigh : s.lines.motorStep = true) :
    s.lines.motorEn = true ∧ (s.routine = .advance ∨ s.routine = .home) := by
  have not_low {P : Prop} (hlow : s.lines.motorStep = false) : P := absurd (hhigh.symm.trans hlow) nofun
  unfold MotorInv at hs
  unfold State.routine
  cases hu : s.upc with
  | advance p =>
    rw [hu] at hs
    cases p with
    | stepLow i =>
      obtain ⟨hen, -⟩ := hs
      exact ⟨hen, .inl rfl⟩
    | stepHigh | disable => exact not_low hs.right
    | setDir | enable | finish => exact not_low hs
  | home p =>
    rw [hu] at hs
    cases p with
    | stepLow i =>
      obtain ⟨hen, -⟩ := hs
      exact ⟨hen, .inr rfl⟩
    | stepHigh | sampleEndstop | disable => exact not_low hs.right
    | setDir | enable | finish => exact not_low hs
  | idle | powerUp | powerDown | fire =>
    rw [hu] at hs
    exact not_low hs

/-- Settles O55: each micro-op of a motor routine drives its line to the next position's levels, no other routine touches
MOTOR_STEP, and a command is accepted with it at 0. -/
theorem stepKeepsMotorInvariant : Obligations.StepKeepsMotorInvariant := fun _ _ hs h =>
  ⟨hs.step h, (hs.step h).enabled_of_high⟩

end Sys2Proof.Machine
end

section
/-! SUPPORT. The number of pulses HOME issues (spec/44_motor.md rules R203 to R206), by the number left in its budget. -/

namespace Sys2Proof.Machine

/-! ## Pulse by pulse -/

section
variable {c : Config} {level : Nat → Bool}

/-- A triggered sample ends the stepping with the pulse before it (rule R204). -/
theorem homePulses_hit (i n : Nat) (h : endstopTriggered c (level (2 + c.tSth + c.tStl)) = true) :
    homePulses c level i (n + 1) = (i + 1, true) := by
  rw [homePulses, if_pos h]

/-- After any other sample the pulses left in the budget follow. -/
theorem homePulses_miss (i n : Nat) (h : endstopTriggered c (level (2 + c.tSth + c.tStl)) = false) :
    homePulses c level i (n + 1) = homePulses c (fun j => level (3 + c.tSth + c.tStl + j)) (i + 1) n := by
  rw [homePulses, if_neg (by simp [h])]

/-- The pulses done before are counted, and change nothing else. -/
theorem homePulses_eq_add (n : Nat) : ∀ {level : Nat → Bool} (i : Nat),
    homePulses c level i n = ((homePulses c level 0 n).1 + i, (homePulses c level 0 n).2) := by
  induction n with
  | zero => exact fun i => by rw [homePulses, homePulses, Nat.zero_add]
  | succ n ih =>
    intro level i
    cases h : endstopTriggered c (level (2 + c.tSth + c.tStl)) with
    | true => simp only [homePulses_hit _ n h, Nat.zero_add, Nat.add_comm]
    | false =>
      rw [homePulses_miss i n h, homePulses_miss 0 n h, ih (i + 1), ih (0 + 1)]
      simp only [Nat.zero_add, Nat.add_assoc, Nat.add_comm 1 i]

/-- After a first sample that does not trigger, the pulses left in the budget follow that pulse. -/
theorem homePulses_zero_miss (n : Nat) (h : endstopTriggered c (level (2 + c.tSth + c.tStl)) = false) :
    homePulses c level 0 (n + 1) =
      ((homePulses c (fun j => level (3 + c.tSth + c.tStl + j)) 0 n).1 + 1,
        (homePulses c (fun j => level (3 + c.tSth + c.tStl + j)) 0 n).2) := by
  rw [homePulses_miss 0 n h, homePulses_eq_add]

end

/-! ## The first trigger within the budget (rules R204 to R206) -/

/-- `k` is the number of the first sample that shows the trigger, samples being numbered from 1, or the budget `n` if none does; and
whether one does. -/
structure IsPulseCount (triggered : Nat → Prop) (n : Nat) (k : Nat × Bool) : Prop where
  pos : 1 ≤ k.1
  le : k.1 ≤ n
  missed : ∀ i, 1 ≤ i → i < k.1 → ¬triggered i
  hit : k.2 = true ↔ triggered k.1
  exhausted : k.2 = false → k.1 = n

section
variable {triggered : Nat → Prop} {n : Nat}

theorem isPulseCount_of_hit (h : triggered 1) : IsPulseCount triggered (n + 1) (1, true) where
  pos := Nat.le_refl 1
  le := Nat.succ_pos n
  missed _ h1 hi := absurd hi (Nat.not_lt.2 h1)
  hit := iff_of_true rfl h
  exhausted := nofun

theorem isPulseCount_of_last (h : ¬triggered 1) : IsPulseCount triggered 1 (1, false) where
  pos := Nat.le_refl 1
  le := Nat.le_refl 1
  missed _ h1 hi := absurd hi (Nat.not_lt.2 h1)
  hit := iff_of_false nofun h
  exhausted _ := rfl

/-- One more pulse, whose sample does not trigger, before all others. -/
theorem IsPulseCount.cons {next : Nat → Prop} {k : Nat × Bool} (h : ¬triggered 1)
    (hnext : ∀ i, 1 ≤ i → (next i ↔ triggered (i + 1))) (hk : IsPulseCount next n k) :
    IsPulseCount triggered (n + 1) (k.1 + 1, k.2) where
  pos := Nat.succ_pos k.1
  le := Nat.succ_le_succ hk.le
  missed i h1 hi := by
    obtain rfl | ⟨m, hm, rfl⟩ : i = 1 ∨ ∃ m, 1 ≤ m ∧ i = m + 1 := by
      by_cases hone : i = 1
      · exact .inl hone
      · exact .inr ⟨i - 1, by omega, by omega⟩
    · exact h
    · exact fun ht => hk.missed m hm (Nat.lt_of_succ_lt_succ hi) ((hnext m hm).2 ht)
  hit := hk.hit.trans (hnext k.1 hk.pos)
  exhausted he := by rw [hk.exhausted he]

end

/-- The samples after the first are those of the cycles after the first pulse's. -/
theorem sample_succ (p : Nat) {i : Nat} (hp : 0 < p) (hi : 1 ≤ i) : p + (i * p - 1) = (i + 1) * p - 1 := by
  have hpos : 0 < i * p := Nat.mul_pos hi hp
  rw [Nat.succ_mul]
  omega

/-- What the sample after the `i`-th pulse of HOME shows (rules R202, R206). -/
def SampleTriggered (c : Config) (level : Nat → Bool) (i : Nat) : Prop :=
  level (i * (3 + c.tSth + c.tStl) - 1) = c.endstopTrig

theorem sampleTriggered_one (c : Config) (level : Nat → Bool) :
    SampleTriggered c level 1 ↔ endstopTriggered c (level (2 + c.tSth + c.tStl)) = true := by
  have hcycle : 1 * (3 + c.tSth + c.tStl) - 1 = 2 + c.tSth + c.tStl := by omega
  rw [SampleTriggered, hcycle, endstopTriggered_iff]

theorem sampleTriggered_add_one (c : Config) (level : Nat → Bool) {i : Nat} (hi : 1 ≤ i) :
    SampleTriggered c (fun j => level (3 + c.tSth + c.tStl + j)) i ↔ SampleTriggered c level (i + 1) := by
  have hcycle := sample_succ (3 + c.tSth + c.tStl) (by omega) hi
  rw [SampleTriggered, SampleTriggered, hcycle]

theorem isPulseCount_homePulses (c : Config) (n : Nat) : ∀ level : Nat → Bool,
    IsPulseCount (SampleTriggered c level) (n + 1) (homePulses c level 0 (n + 1)) := by
  induction n with
  | zero =>
    intro level
    cases h : endstopTriggered c (level (2 + c.tSth + c.tStl)) with
    | true =>
      rw [homePulses_hit 0 0 h]
      exact isPulseCount_of_hit ((sampleTriggered_one c level).2 h)
    | false =>
      rw [homePulses_miss 0 0 h]
      exact isPulseCount_of_last (by rw [sampleTriggered_one, h]; nofun)
  | succ n ih =>
    intro level
    cases h : endstopTriggered c (level (2 + c.tSth + c.tStl)) with
    | true =>
      rw [homePulses_hit 0 (n + 1) h]
      exact isPulseCount_of_hit ((sampleTriggered_one c level).2 h)
    | false =>
      rw [homePulses_zero_miss (n + 1) h]
      exact .cons (by rw [sampleTriggered_one, h]; nofun) (fun i => sampleTriggered_add_one c level) (ih _)

/-- HOME's budget allows a pulse (rule R9). -/
theorem exists_homeMaxSteps_eq_succ (c : Config) : ∃ n, c.homeMaxSteps = n + 1 := by
  obtain ⟨-, -, -, hbudget, -⟩ := c.valid
  exact Nat.exists_eq_add_of_le' hbudget

theorem isPulseCount_home (c : Config) (level : Nat → Bool) :
    IsPulseCount (SampleTriggered c level) c.homeMaxSteps (homePulses c level 0 c.homeMaxSteps) := by
  obtain ⟨n, hn⟩ := exists_homeMaxSteps_eq_succ c
  rw [hn]
  exact isPulseCount_homePulses c n level

/-- Settles O32: the count is the first trigger's among the samples, one for each pulse of the budget. -/
theorem homePulseCount : Obligations.HomePulseCount := by
  intro c level p k
  obtain ⟨hpos, hle, hmissed, hhit, hexhausted⟩ := isPulseCount_home c level
  obtain ⟨-, -, -, -, hbudget, -⟩ := c.valid
  exact ⟨hpos, hle, hle.trans hbudget, hmissed, hhit, hexhausted⟩

end Sys2Proof.Machine
end

section
/-! SUPPORT. The schedule of a motor routine, ADVANCE and HOME alike: its length, the lines after it and the levels of the three
motor lines in it (spec/44_motor.md rules R191 to R193, R196, R203, R206). -/

namespace Sys2Proof.Machine

/-- One step pulse, and `extra` cycles of its low phase after the wait (rule R191): none in ADVANCE, the sample in HOME. -/
def pulseDrives (c : Config) (extra : Nat) : List Drive :=
  [⟨.motorStep, true, c.tSth⟩, ⟨.motorStep, false, c.tStl + extra⟩]

/-- `n` step pulses. -/
def trainDrives (c : Config) (extra n : Nat) : List Drive := (List.replicate n (pulseDrives c extra)).flatten

/-- What precedes the pulses (rule R192). -/
def enableDrives (c : Config) (dir : Bool) : List Drive := [⟨.motorDir, dir, 0⟩, ⟨.motorEn, true, c.tMen⟩]

/-- What follows the pulses (rule R192). -/
def disableDrives (keep : Bool) : List Drive := if keep then [] else [⟨.motorEn, false, 0⟩]

/-- A motor routine that issues `n` pulses, up to its `done`. -/
def motorDrives (c : Config) (extra : Nat) (dir : Bool) (n : Nat) (keep : Bool) : List Drive :=
  enableDrives c dir ++ trainDrives c extra n ++ disableDrives keep

section
variable (c : Config) (extra : Nat) (dir keep : Bool) (x : Lines)

theorem trainDrives_add_one (n : Nat) : trainDrives c extra (n + 1) = pulseDrives c extra ++ trainDrives c extra n := rfl

/-! ## Lengths (rules R191, R196, R206) -/

theorem duration_pulseDrives : duration (pulseDrives c extra) = 2 + c.tSth + c.tStl + extra := by
  rw [pulseDrives, duration_cons, duration_singleton]
  simp only
  omega

/-- The step period of HOME, whose pulses have one extra cycle (rule R191). -/
theorem homePeriod_eq : 2 + c.tSth + c.tStl + 1 = 3 + c.tSth + c.tStl := by omega

theorem duration_trainDrives (n : Nat) : duration (trainDrives c extra n) = n * (2 + c.tSth + c.tStl + extra) := by
  induction n with
  | zero => rw [Nat.zero_mul]; rfl
  | succ n ih => rw [trainDrives_add_one, duration_append, duration_pulseDrives, ih, Nat.succ_mul, Nat.add_comm]

theorem duration_enableDrives : duration (enableDrives c dir) = 2 + c.tMen := by
  rw [enableDrives, duration_cons, duration_singleton]
  simp only
  omega

theorem duration_disableDrives : duration (disableDrives keep) = if keep then 0 else 1 := by
  cases keep <;> rfl

theorem duration_motorDrives (n : Nat) :
    duration (motorDrives c extra dir n keep) =
      2 + c.tMen + n * (2 + c.tSth + c.tStl + extra) + (if keep then 0 else 1) := by
  rw [motorDrives, duration_append, duration_append, duration_enableDrives, duration_trainDrives, duration_disableDrives]

/-! ## The lines driven and the lines after -/

theorem trainDrives_line (n : Nat) : ∀ d ∈ trainDrives c extra n, d.line = .motorStep := by
  intro d hd
  obtain ⟨ds, hds, hd⟩ := List.mem_flatten.1 hd
  rw [List.eq_of_mem_replicate hds] at hd
  obtain rfl | rfl : d = _ ∨ d = _ := by simpa only [pulseDrives, List.mem_cons, List.not_mem_nil, or_false] using hd
  all_goals rfl

theorem disableDrives_line : ∀ d ∈ disableDrives keep, d.line = .motorEn := by
  cases keep <;> simp [disableDrives]

/-- After a pulse MOTOR_STEP is 0, whatever it was before the pulse. -/
theorem linesAfter_trainDrives {n : Nat} (hn : 0 < n) : linesAfter x (trainDrives c extra n) = x.set .motorStep false := by
  induction n, hn using Nat.le_induction generalizing x with
  | base => rfl
  | succ n _ ih =>
    rw [trainDrives_add_one, linesAfter_append, ih]
    rfl

theorem linesAfter_motorDrives {n : Nat} (hn : 0 < n) :
    linesAfter x (motorDrives c extra dir n keep) = { x with motorEn := keep, motorDir := dir, motorStep := false } := by
  rw [motorDrives, linesAfter_append, linesAfter_append, linesAfter_trainDrives c extra _ hn]
  cases keep <;> rfl

/-! ## The levels (rules R191, R192, R195) -/

/-- The levels of MOTOR_STEP in a pulse (rule R191). -/
def pulseLevels : List Bool := List.replicate (c.tSth + 1) true ++ List.replicate (c.tStl + extra + 1) false

theorem motorStep_trainDrives (n : Nat) : ∀ x : Lines,
    driveLevels .motorStep x (trainDrives c extra n) = repeated n (pulseLevels c extra) := by
  induction n with
  | zero => exact fun _ => rfl
  | succ n ih =>
    intro x
    rw [trainDrives_add_one, driveLevels_append, ih, repeated_succ]
    congr 1
    simp only [pulseDrives, driveLevels_cons, Lines.get_set, if_true, pulseLevels]
    exact congrArg _ (List.append_nil _)

theorem motorStep_motorDrives {n : Nat} (hn : 0 < n) :
    driveLevels .motorStep x (motorDrives c extra dir n keep) =
      List.replicate (2 + c.tMen) x.motorStep ++ repeated n (pulseLevels c extra) ++
        List.replicate (if keep then 0 else 1) false := by
  have henable := untouched (l := .motorStep) (ds := enableDrives c dir) (x := x) (by simp [enableDrives])
  have hdisable {y : Lines} := untouched (l := .motorStep) (ds := disableDrives keep) (x := y) fun d hd => by
    simp [disableDrives_line keep d hd]
  rw [motorDrives, driveLevels_append, driveLevels_append, linesAfter_append, henable.left, motorStep_trainDrives,
    linesAfter_trainDrives c extra _ hn, hdisable.left, duration_enableDrives, duration_disableDrives]
  rfl

theorem motorEn_motorDrives (n : Nat) :
    driveLevels .motorEn x (motorDrives c extra dir n keep) =
      x.motorEn :: List.replicate (1 + c.tMen + n * (2 + c.tSth + c.tStl + extra)) true ++
        List.replicate (if keep then 0 else 1) false := by
  have hon := driveLevels_driven (l := .motorEn) (d := ⟨.motorEn, true, c.tMen⟩) (ds := trainDrives c extra n)
    (x.set .motorDir dir) rfl fun d hd => by simp [trainDrives_line c extra n d hd]
  have hoff (y : Lines) : driveLevels .motorEn y (disableDrives keep) = List.replicate (if keep then 0 else 1) false := by
    cases keep <;> rfl
  have hlength : 1 + c.tMen + n * (2 + c.tSth + c.tStl + extra) =
      duration (⟨.motorEn, true, c.tMen⟩ :: trainDrives c extra n) := by
    rw [duration_cons, duration_trainDrives, Nat.add_comm 1]
  rw [motorDrives, driveLevels_append, hoff, enableDrives, List.cons_append, List.singleton_append, driveLevels_cons, hon,
    hlength]
  rfl

theorem motorDir_motorDrives (n : Nat) :
    driveLevels .motorDir x (motorDrives c extra dir n keep) =
      List.replicate (duration (motorDrives c extra dir n keep)) dir :=
  driveLevels_driven (d := ⟨.motorDir, dir, 0⟩)
    (ds := ⟨.motorEn, true, c.tMen⟩ :: trainDrives c extra n ++ disableDrives keep) x rfl fun d hd => by
      obtain (rfl | htrain) | hoff :
          (d = ⟨.motorEn, true, c.tMen⟩ ∨ d ∈ trainDrives c extra n) ∨ d ∈ disableDrives keep := by
        simpa only [List.mem_append, List.mem_cons] using hd
      · nofun
      · simp [trainDrives_line c extra n d htrain]
      · simp [disableDrives_line keep d hoff]

end

end Sys2Proof.Machine
end

section
/-! SUPPORT. The runs of ADVANCE and HOME, from the end of the acceptance cycle to `done`, along the schedule of a motor routine
(spec/44_motor.md rules R193, R196, R203, R206). -/

namespace Sys2Proof.Machine

/-! ## A schedule run from position to position (rules R100 to R102) -/

/-- From the position `q` with the lines `x`, `p j` being the input levels of the `j`-th cycle, the schedule `ds` is run, up to the
position `r` with the sequencer's part `w`. -/
def SeqView.DrivesFrom (v : SeqView) (q : Upc) (x : Lines) (p : Nat → Pins) (ds : List Drive) (w : SeqView) (r : Upc) : Prop :=
  (v.atOp q x).Leads p (duration ds) (w.atOp r (linesAfter x ds)) (driveTrace x ds)

/-- The schedule `ds` is run whatever the lines and the input levels are. -/
def SeqView.Drives (v : SeqView) (q : Upc) (ds : List Drive) (w : SeqView) (r : Upc) : Prop :=
  ∀ x p, v.DrivesFrom q x p ds w r

theorem SeqView.DrivesFrom.trans {u v w : SeqView} {o q r : Upc} {x : Lines} {p : Nat → Pins} {ds es : List Drive}
    (h : u.DrivesFrom o x p ds v q) (h' : v.DrivesFrom q (linesAfter x ds) (fun j => p (duration ds + j)) es w r) :
    u.DrivesFrom o x p (ds ++ es) w r := by
  unfold SeqView.DrivesFrom at h' ⊢
  rw [duration_append, linesAfter_append, driveTrace_append]
  exact SeqView.Leads.trans h h'

theorem SeqView.Drives.trans {u v w : SeqView} {o q r : Upc} {ds es : List Drive} (h : u.Drives o ds v q)
    (h' : v.Drives q es w r) : u.Drives o (ds ++ es) w r := fun x p => (h x p).trans (h' _ _)

/-- A micro-op that drives a line and waits. -/
theorem drives_of_microOp {v w : SeqView} {q r : Upc} (d : Drive) (hq : q ≠ .idle) (hr : r ≠ .idle)
    (h : ∀ x p, (microOp ((v.atOp q x).withPins p)).view = { w.atOp r (x.set d.line d.level) with waitcnt := d.hold }) :
    v.Drives q [d] w r := fun x p => by
  rw [SeqView.DrivesFrom, driveTrace, driveTrace, List.append_nil]
  exact leads_microOp d.hold hq hr (h x (p 0))

/-! ## The operands and `done` (rules R85, R105) -/

/-- |STEPS| of the latched word. -/
def SeqView.count (v : SeqView) : Nat := (stepsField v.cmdLatch).toInt.natAbs

/-- The direction of the latched STEPS (rule R194). -/
def SeqView.dir (v : SeqView) : Bool := decide (0 < (stepsField v.cmdLatch).toInt)

/-- KEEP of the latched word. -/
def SeqView.keep (v : SeqView) : Bool := keepField v.cmdLatch

/-- The sequencer's part with `n` pulses counted, and whether the endstop was seen. -/
def SeqView.pulsed (v : SeqView) (n : Nat) (hit : Bool) : SeqView :=
  { v with acc := { v.acc with pulses := n, hit := hit } }

/-- The sequencer's part after the `done` of a motor routine, the lines being `x` (rules R35, R105). -/
def SeqView.motorDone (v : SeqView) (x : Lines) (f : DoneFields) : SeqView :=
  { v.atOp .idle x with
    result := doneResult (opcField v.cmdLatch) f
    stepcount := BitVec.ofNat 32 v.acc.pulses }

/-- The lines before and after each cycle of a schedule and of the `done` after it. -/
def doneTrace (x : Lines) (ds : List Drive) : List (Lines × Lines) := driveTrace x ds ++ [(linesAfter x ds, linesAfter x ds)]

/-! ## ADVANCE (rules R193, R196) -/

/-- A pulse of ADVANCE that is not the last is followed by the next. -/
theorem advanceStepLowOp_next {s : State} {i : Nat} (h : i < s.latchCount) :
    advanceStepLowOp i s = (s.drive .motorStep false).goto (.advance (.stepHigh (i + 1))) s.cfg.tStl := by
  rw [advanceStepLowOp, if_pos h]

/-- The last pulse of ADVANCE is followed by the routine's end. -/
theorem advanceStepLowOp_last {s : State} {i : Nat} (h : ¬i < s.latchCount) :
    advanceStepLowOp i s =
      { s.drive .motorStep false with acc := { s.acc with pulses := s.latchCount } }.goto
        (.advance (if s.latchKeep then .finish else .disable)) s.cfg.tStl := by
  rw [advanceStepLowOp, if_neg h]

section
variable (v : SeqView)

/-- Where ADVANCE goes when it has stopped stepping. -/
def SeqView.advanceExit (v : SeqView) : Upc := .advance (if v.keep then .finish else .disable)

theorem SeqView.advanceExit_ne_idle : v.advanceExit ≠ .idle := nofun

theorem drives_advancePulse {w : SeqView} {r : Upc} {i : Nat} (hr : r ≠ .idle)
    (h : ∀ x p, (advanceStepLowOp i ((v.atOp (.advance (.stepLow i)) x).withPins p)).view =
      { w.atOp r (x.set .motorStep false) with waitcnt := v.cfg.tStl }) :
    v.Drives (.advance (.stepHigh i)) (pulseDrives v.cfg 0) w r :=
  have hhigh : v.Drives (.advance (.stepHigh i)) [⟨.motorStep, true, v.cfg.tSth⟩] v (.advance (.stepLow i)) :=
    drives_of_microOp _ nofun nofun fun _ _ => rfl
  hhigh.trans (drives_of_microOp _ nofun hr h)

/-- The last `n + 1` pulses of ADVANCE. -/
theorem drives_advancePulses {n : Nat} : ∀ {i : Nat}, i + n = v.count →
    v.Drives (.advance (.stepHigh i)) (trainDrives v.cfg 0 (n + 1)) (v.pulsed v.count v.acc.hit) v.advanceExit := by
  induction n with
  | zero =>
    intro i hi
    refine drives_advancePulse v v.advanceExit_ne_idle fun x p => ?_
    have hlast : ¬i < ((v.atOp (.advance (.stepLow i)) x).withPins p).latchCount := Nat.not_lt.2 hi.ge
    rw [advanceStepLowOp_last hlast]
    rfl
  | succ n ih =>
    intro i hi
    refine (drives_advancePulse v (r := .advance (.stepHigh (i + 1))) nofun fun x p => ?_).trans (ih (i := i + 1) (by omega))
    have hnext : i < ((v.atOp (.advance (.stepLow i)) x).withPins p).latchCount := show i < v.count by omega
    rw [advanceStepLowOp_next hnext]
    rfl

theorem drives_advanceEnable :
    v.Drives (.advance .setDir) (enableDrives v.cfg v.dir) v (.advance (.stepHigh 1)) :=
  have hdir : v.Drives (.advance .setDir) [⟨.motorDir, v.dir, 0⟩] v (.advance .enable) :=
    drives_of_microOp _ nofun nofun fun _ _ => rfl
  hdir.trans (drives_of_microOp _ nofun nofun fun _ _ => rfl)

theorem drives_advanceDisable : v.Drives v.advanceExit (disableDrives v.keep) v (.advance .finish) := by
  unfold SeqView.advanceExit
  cases v.keep with
  | true => exact fun x p => .refl p _
  | false => exact drives_of_microOp ⟨.motorEn, false, 0⟩ nofun nofun fun _ _ => rfl

theorem leads_advanceDone (x : Lines) (p : Nat → Pins) :
    (v.atOp (.advance .finish) x).Leads p 1 (v.motorDone x { noop := v.acc.noop }) [(x, x)] :=
  .of_op (n := 0) nofun (v.next_atOp _ x (p 0)) rfl nofun

/-- ADVANCE by a count other than 0: the direction, the driver, the pulses, the driver again unless KEEP, `done`. -/
theorem leads_advance (hcount : 0 < v.count) (x : Lines) (p : Nat → Pins) :
    let ds := motorDrives v.cfg 0 v.dir v.count v.keep
    (v.atOp (.advance .setDir) x).Leads p (duration ds + 1)
      ((v.pulsed v.count v.acc.hit).motorDone (linesAfter x ds) { noop := v.acc.noop }) (doneTrace x ds) := by
  obtain ⟨n, hn⟩ := Nat.exists_eq_add_of_le' hcount
  have hpulses := drives_advancePulses v (n := n) (i := 1) (by omega)
  rw [← hn] at hpulses
  have hrun := ((drives_advanceEnable v).trans hpulses).trans (drives_advanceDisable (v.pulsed v.count v.acc.hit))
  exact SeqView.Leads.trans (hrun x p) (leads_advanceDone _ _ _)

end

/-! ## HOME (rules R203, R206) -/

section
variable {s : State} {i : Nat}

/-- A triggered sample ends HOME's stepping (rule R204). -/
theorem homeSampleOp_hit (h : endstopTriggered s.cfg s.pins.endstop = true) :
    homeSampleOp i s = { s with acc := { s.acc with pulses := i, hit := true } }.goto (.home (homeExit s)) 0 := by
  rw [homeSampleOp, if_pos h]

/-- Another sample is followed by the next pulse of the budget (rule R203). -/
theorem homeSampleOp_next (h : endstopTriggered s.cfg s.pins.endstop = false) (hi : i < s.cfg.homeMaxSteps) :
    homeSampleOp i s = { s with acc := { s.acc with pulses := i } }.goto (.home (.stepHigh (i + 1))) 0 := by
  rw [homeSampleOp, if_neg (by simp [h]), if_pos hi]

/-- The last pulse of the budget ends HOME's stepping (rule R205). -/
theorem homeSampleOp_last (h : endstopTriggered s.cfg s.pins.endstop = false) (hi : ¬i < s.cfg.homeMaxSteps) :
    homeSampleOp i s = { s with acc := { s.acc with pulses := i } }.goto (.home (homeExit s)) 0 := by
  rw [homeSampleOp, if_neg (by simp [h]), if_neg hi]

end

section
variable (v : SeqView)

/-- Where HOME goes when it has stopped stepping. -/
def SeqView.homeExit (v : SeqView) : Upc := .home (if v.keep then .finish else .disable)

theorem SeqView.homeExit_ne_idle : v.homeExit ≠ .idle := nofun

/-- A sample that drives no line holds the pulse's low phase for one more cycle. -/
theorem driveTrace_pulseDrives_one (c : Config) (x : Lines) :
    driveTrace x (pulseDrives c 1) =
      driveTrace x (pulseDrives c 0) ++ [(linesAfter x (pulseDrives c 0), linesAfter x (pulseDrives c 0))] := by
  simp only [pulseDrives, driveTrace, List.replicate_succ', List.append_nil, List.append_assoc, List.cons_append]
  rfl

/-- A pulse of HOME and its sample (rule R203). -/
theorem drivesFrom_homePulse {w : SeqView} {r : Upc} {i : Nat} {p : Nat → Pins} (x : Lines) (hr : r ≠ .idle)
    (h : ∀ y, (homeSampleOp i ((v.atOp (.home (.sampleEndstop i)) y).withPins (p (2 + v.cfg.tSth + v.cfg.tStl)))).view =
      w.atOp r y) :
    v.DrivesFrom (.home (.stepHigh i)) x p (pulseDrives v.cfg 1) w r := by
  have hhigh : v.Drives (.home (.stepHigh i)) [⟨.motorStep, true, v.cfg.tSth⟩] v (.home (.stepLow i)) :=
    drives_of_microOp _ nofun nofun fun _ _ => rfl
  have hlow : v.Drives (.home (.stepLow i)) [⟨.motorStep, false, v.cfg.tStl⟩] v (.home (.sampleEndstop i)) :=
    drives_of_microOp _ nofun nofun fun _ _ => rfl
  have hpulse : v.Drives (.home (.stepHigh i)) (pulseDrives v.cfg 0) v (.home (.sampleEndstop i)) := hhigh.trans hlow
  have hcycle : p (duration (pulseDrives v.cfg 0) + 0) = p (2 + v.cfg.tSth + v.cfg.tStl) :=
    congrArg p (duration_pulseDrives v.cfg 0)
  rw [← hcycle] at h
  have hlength : duration (pulseDrives v.cfg 1) = duration (pulseDrives v.cfg 0) + (0 + 1) := by
    rw [duration_pulseDrives, duration_pulseDrives]
  rw [SeqView.DrivesFrom, driveTrace_pulseDrives_one, hlength]
  exact SeqView.Leads.trans (hpulse x p) (leads_microOp 0 nofun hr (h _))

/-- What `homePulses` counts is what HOME does: its stepping after `i` pulses, with `n` left in the budget, up to its end. -/
def SeqView.Homes (v : SeqView) (i n : Nat) (x : Lines) (p : Nat → Pins) : Prop :=
  let k := homePulses v.cfg (fun j => (p j).endstop) 0 n
  (v.pulsed i false).DrivesFrom (.home (.stepHigh (i + 1))) x p (trainDrives v.cfg 1 k.1) (v.pulsed (i + k.1) k.2) v.homeExit

section
variable {i n : Nat} {x : Lines} {p : Nat → Pins}

theorem homes_hit (h : endstopTriggered v.cfg (p (2 + v.cfg.tSth + v.cfg.tStl)).endstop = true) :
    v.Homes i (n + 1) x p := by
  rw [SeqView.Homes, homePulses_hit 0 n h]
  refine drivesFrom_homePulse (v.pulsed i false) (w := v.pulsed (i + 1) true) x v.homeExit_ne_idle fun y => ?_
  rw [homeSampleOp_hit h]
  rfl

theorem homes_last (h : endstopTriggered v.cfg (p (2 + v.cfg.tSth + v.cfg.tStl)).endstop = false)
    (hi : i + 1 = v.cfg.homeMaxSteps) : v.Homes i 1 x p := by
  rw [SeqView.Homes, homePulses_miss 0 0 h]
  refine drivesFrom_homePulse (v.pulsed i false) (w := v.pulsed (i + 1) false) x v.homeExit_ne_idle fun y => ?_
  rw [homeSampleOp_last h (Nat.not_lt.2 hi.ge)]
  rfl

theorem homes_miss (h : endstopTriggered v.cfg (p (2 + v.cfg.tSth + v.cfg.tStl)).endstop = false)
    (hi : i + 1 < v.cfg.homeMaxSteps)
    (hrest : v.Homes (i + 1) n (linesAfter x (pulseDrives v.cfg 1)) fun j => p (3 + v.cfg.tSth + v.cfg.tStl + j)) :
    v.Homes i (n + 1) x p := by
  have hpulse := drivesFrom_homePulse (v.pulsed i false) (w := v.pulsed (i + 1) false) (r := .home (.stepHigh (i + 2))) x
    nofun fun y => by
      rw [homeSampleOp_next h hi]
      rfl
  have hlength : 3 + v.cfg.tSth + v.cfg.tStl = duration (pulseDrives v.cfg 1) := by
    rw [duration_pulseDrives, homePeriod_eq]
  rw [hlength, SeqView.Homes] at hrest
  rw [SeqView.Homes, homePulses_zero_miss n h, hlength, trainDrives_add_one]
  generalize homePulses v.cfg (fun j => (p (duration (pulseDrives v.cfg 1) + j)).endstop) 0 n = k at hrest ⊢
  rw [Nat.add_right_comm i 1 k.1] at hrest
  exact hpulse.trans hrest

end

theorem homes_of_budget {n : Nat} : ∀ {i : Nat} (x : Lines) (p : Nat → Pins), i + (n + 1) = v.cfg.homeMaxSteps →
    v.Homes i (n + 1) x p := by
  induction n with
  | zero =>
    intro i x p hi
    cases h : endstopTriggered v.cfg (p (2 + v.cfg.tSth + v.cfg.tStl)).endstop with
    | true => exact homes_hit v h
    | false => exact homes_last v h hi
  | succ n ih =>
    intro i x p hi
    cases h : endstopTriggered v.cfg (p (2 + v.cfg.tSth + v.cfg.tStl)).endstop with
    | true => exact homes_hit v h
    | false => exact homes_miss v h (by omega) (ih _ _ (by omega))

/-- The direction HOME drives in (rule R203). -/
def SeqView.homeDir (v : SeqView) : Bool := v.cfg.homeDir == .pos

theorem drives_homeEnable : v.Drives (.home .setDir) (enableDrives v.cfg v.homeDir) v (.home (.stepHigh 1)) :=
  have hdir : v.Drives (.home .setDir) [⟨.motorDir, v.homeDir, 0⟩] v (.home .enable) :=
    drives_of_microOp _ nofun nofun fun _ _ => rfl
  hdir.trans (drives_of_microOp _ nofun nofun fun _ _ => rfl)

theorem drives_homeDisable : v.Drives v.homeExit (disableDrives v.keep) v (.home .finish) := by
  unfold SeqView.homeExit
  cases v.keep with
  | true => exact fun x p => .refl p _
  | false => exact drives_of_microOp ⟨.motorEn, false, 0⟩ nofun nofun fun _ _ => rfl

theorem leads_homeDone (x : Lines) (p : Nat → Pins) :
    (v.atOp (.home .finish) x).Leads p 1 (v.motorDone x { endstopHit := v.acc.hit }) [(x, x)] :=
  .of_op (n := 0) nofun (v.next_atOp _ x (p 0)) rfl nofun

/-- HOME: its direction, the driver, the pulses, the driver again unless KEEP, `done`. -/
theorem leads_home (hv : v.acc = Acc.zero) (x : Lines) (p : Nat → Pins) :
    let k := homePulses v.cfg (fun j => (p (2 + v.cfg.tMen + j)).endstop) 0 v.cfg.homeMaxSteps
    let ds := motorDrives v.cfg 1 v.homeDir k.1 v.keep
    (v.atOp (.home .setDir) x).Leads p (duration ds + 1)
      ((v.pulsed k.1 k.2).motorDone (linesAfter x ds) { endstopHit := k.2 }) (doneTrace x ds) := by
  intro k ds
  obtain ⟨n, hn⟩ := exists_homeMaxSteps_eq_succ v.cfg
  have hstart : v.pulsed 0 false = v := by
    cases v
    cases hv
    rfl
  have hpulses : v.DrivesFrom (.home (.stepHigh 1)) (linesAfter x (enableDrives v.cfg v.homeDir))
      (fun j => p (2 + v.cfg.tMen + j)) (trainDrives v.cfg 1 k.1) (v.pulsed k.1 k.2) v.homeExit := by
    have hhomes := homes_of_budget v (n := n) (i := 0) (linesAfter x (enableDrives v.cfg v.homeDir))
      (fun j => p (2 + v.cfg.tMen + j)) (by omega)
    rw [← hn, SeqView.Homes, hstart, Nat.zero_add, Nat.zero_add] at hhomes
    exact hhomes
  rw [← duration_enableDrives v.cfg v.homeDir] at hpulses
  have hrun := ((drives_homeEnable v x p).trans hpulses).trans (drives_homeDisable (v.pulsed k.1 k.2) _ _)
  exact SeqView.Leads.trans hrun (leads_homeDone _ _ _)

end

end Sys2Proof.Machine
end

section
/-! SUPPORT. ADVANCE and HOME whole: acceptance, run and end, and the levels of the motor lines in every cycle (spec/44_motor.md
rules R193 to R197, R203 to R207). -/

namespace Sys2Proof.Machine

/-! ## The levels (rules R191, R192, R195) -/

/-- A line's levels along a run that follows a schedule and ends with `done`. -/
theorem levelTrace_of_schedule (l : Line) {t : State} {n : Nat} {w : SeqView} {x : Lines} {ds : List Drive}
    (h : t.view.Leads t.pinsAt n w (doneTrace x ds)) (hr : t.RunsFor n) :
    levelTrace l n t = driveLevels l x ds ++ [(linesAfter x ds).get l] := by
  rw [levelTrace_of_leads l h hr, doneTrace, List.map_append]
  rfl

/-- The levels of the three motor lines along the run of a motor routine of `n` pulses. -/
theorem levelTrace_motor {t : State} {w : SeqView} {x : Lines} {c : Config} {extra n : Nat} {dir keep : Bool} {len : Nat}
    (hlen : len = duration (motorDrives c extra dir n keep) + 1) (hn : 0 < n)
    (h : t.view.Leads t.pinsAt len w (doneTrace x (motorDrives c extra dir n keep))) (hr : t.RunsFor len) :
    levelTrace .motorStep len t =
      List.replicate (2 + c.tMen) x.motorStep ++ repeated n (pulseLevels c extra) ++
        List.replicate (if keep then 1 else 2) false ∧
    levelTrace .motorEn len t =
      [x.motorEn] ++ List.replicate (1 + c.tMen + n * (2 + c.tSth + c.tStl + extra)) true ++
        List.replicate (if keep then 1 else 2) keep ∧
    levelTrace .motorDir len t = List.replicate len dir := by
  have hend : List.replicate (if keep then 0 else 1) false ++ [keep] = List.replicate (if keep then 1 else 2) keep := by
    cases keep <;> rfl
  have hlow : List.replicate (if keep then 0 else 1) false ++ [false] = List.replicate (if keep then 1 else 2) false := by
    cases keep <;> rfl
  rw [levelTrace_of_schedule .motorStep h hr, levelTrace_of_schedule .motorEn h hr, levelTrace_of_schedule .motorDir h hr,
    motorStep_motorDrives c extra dir keep x hn, motorEn_motorDrives, motorDir_motorDrives,
    linesAfter_motorDrives c extra dir keep x hn, hlen, List.replicate_succ', List.append_assoc _ _ [_], List.append_assoc _ _ [_]]
  exact ⟨congrArg _ hlow, congrArg _ hend, rfl⟩

/-! ## Acceptance and end (rules R35, R105, R107, R190) -/

/-- ADVANCE by a count of 0 goes straight to its `done` (rule R197(1)). -/
theorem exec_advance_noop {s : State} (keep : Bool) (hb : s.busy = false) :
    exec (.advance 0 keep) s =
      .next (s.accepted (.advance 0 keep) (.advance .finish) 0 { Acc.zero with noop := true }) :=
  exec_acceptedFirst hb (show stepsOk 0 = true by decide) nofun

/-- The end of the acceptance cycle of an ADVANCE by a count other than 0. -/
def State.advancing (s : State) (steps : Int) (keep : Bool) : State :=
  s.accepted (.advance steps keep) (.advance .setDir) 0 Acc.zero

/-- ADVANCE by another count starts with its direction (rule R193). -/
theorem exec_advance_start {s : State} {steps : Int} (keep : Bool) (hb : s.busy = false) (hok : stepsOk steps = true)
    (hne : steps ≠ 0) :
    exec (.advance steps keep) s = .next (s.advancing steps keep) := by
  rw [exec_acceptedFirst (i := .advance steps keep) hb hok nofun, State.acceptedFirst, firstPosition, firstAcc, if_neg hne,
    decide_eq_false hne]
  rfl

/-- The end of the acceptance cycle of a HOME. -/
def State.homing (s : State) (keep : Bool) : State := s.accepted (.home keep) (.home .setDir) 0 Acc.zero

/-- HOME starts with its direction (rule R203). -/
theorem exec_home_start {s : State} (keep : Bool) (hb : s.busy = false) :
    exec (.home keep) s = .next (s.homing keep) :=
  exec_acceptedFirst hb rfl nofun

/-- What a motor routine's `done` leaves. -/
theorem fields_of_motorDone {u : State} {v : SeqView} {x : Lines} {f : DoneFields} (h : u.view = v.motorDone x f) :
    u.cfg = v.cfg ∧ u.pstate = v.pstate ∧ u.result = doneResult (opcField v.cmdLatch) f ∧
    u.stepcount = BitVec.ofNat 32 v.acc.pulses ∧ u.shiftBuf = v.shiftBuf ∧ u.cmdLatch = v.cmdLatch ∧ u.lines = x := by
  simp only [State.view, SeqView.motorDone, SeqView.atOp, SeqView.mk.injEq] at h
  obtain ⟨hcfg, hlines, hpstate, hresult, hstepcount, -, -, hshiftBuf, hcmdLatch, -⟩ := h
  exact ⟨hcfg, hpstate, hresult, hstepcount, hshiftBuf, hcmdLatch, hlines⟩

/-- RESULT of ADVANCE: OPC 4, NOOP as given (rules R33, R193). -/
theorem doneResult_advance (steps : Int) (keep noop : Bool) :
    doneResult (opcField (encode (.advance steps keep))) { noop := noop } = if noop then 0x00002040 else 0x00000040 := by
  rw [encode, opcField_layoutM]
  cases noop <;> decide

/-- RESULT of HOME: OPC 5, ENDSTOP_HIT as given, HOME_EXHAUSTED its negation (rules R33, R34, R203). -/
theorem doneResult_home (keep hit : Bool) :
    doneResult (opcField (encode (.home keep))) { endstopHit := hit } = if hit then 0x00001050 else 0x00008050 := by
  rw [encode, opcField_layoutH]
  cases hit <;> decide

/-! ## ADVANCE -/

section
variable (s : State) {steps : Int} (keep : Bool)

theorem advancing_keep : (s.advancing steps keep).view.keep = keep := keepField_layoutM _ _

theorem advancing_dir (hok : stepsOk steps = true) : (s.advancing steps keep).view.dir = decide (0 < steps) := by
  change decide (0 < (stepsField (layoutM _ _)).toInt) = _
  rw [stepsField_layoutM, toInt_steps hok]

theorem advancing_count (hok : stepsOk steps = true) : (s.advancing steps keep).view.count = steps.natAbs :=
  latchCount_eq rfl hok

theorem advanceLength_eq {n : Nat} (hn : 0 < n) (dir : Bool) (c : Config) :
    advanceLength c n keep = duration (motorDrives c 0 dir n keep) + 1 := by
  rw [advanceLength, if_neg hn.ne', duration_motorDrives, Nat.add_zero (2 + c.tSth + c.tStl)]
  omega

/-- The schedule of an ADVANCE accepted in `s`. -/
def State.advanceDrives (s : State) (steps : Int) (keep : Bool) : List Drive :=
  motorDrives s.cfg 0 (decide (0 < steps)) steps.natAbs keep

theorem leads_advancing (hok : stepsOk steps = true) (hne : steps ≠ 0) :
    (s.advancing steps keep).view.Leads (s.advancing steps keep).pinsAt (duration (s.advanceDrives steps keep) + 1)
      (((s.advancing steps keep).view.pulsed steps.natAbs false).motorDone (linesAfter s.lines (s.advanceDrives steps keep)) {})
      (doneTrace s.lines (s.advanceDrives steps keep)) := by
  have hcount := advancing_count s keep hok
  have hrun := leads_advance (s.advancing steps keep).view (hcount ▸ Int.natAbs_pos.2 hne) s.lines (s.advancing steps keep).pinsAt
  rw [advancing_dir s keep hok, advancing_keep, hcount] at hrun
  exact hrun

end

/-- Settles O28: the routine is its `done` alone. -/
theorem advanceZeroIsANoop : Obligations.AdvanceZeroIsANoop := by
  intro s keep hb
  let t := s.accepted (.advance 0 keep) (.advance .finish) 0 { Acc.zero with noop := true }
  have hrun := leads_advanceDone t.view s.lines t.pinsAt
  refine ⟨t, exec_advance_noop keep hb, accepted_of_not_fire s (i := .advance 0 keep) nofun _ _ _,
    completes_of_leads hrun rfl fun u hu => ?_⟩
  obtain ⟨hcfg, hpstate, hresult, hstepcount, hshiftBuf, hcmdLatch, hlines⟩ := fields_of_motorDone hu
  exact ⟨hcfg, hpstate, hresult.trans (doneResult_advance 0 keep true), hstepcount, hshiftBuf, hcmdLatch, hlines⟩

/-- A count in range fits STEPCOUNT (rule R35). -/
theorem toNat_ofNat_natAbs {steps : Int} (hok : stepsOk steps = true) : (BitVec.ofNat 32 steps.natAbs).toNat = steps.natAbs := by
  simp only [stepsOk, Bool.and_eq_true, decide_eq_true_eq] at hok
  rw [BitVec.toNat_ofNat]
  exact Nat.mod_eq_of_lt (by omega)

/-- Settles O27: the run is the schedule of |STEPS| pulses and `done`. -/
theorem advanceCompletes : Obligations.AdvanceCompletes := by
  intro s steps keep hb hok hne
  have hpos := Int.natAbs_pos.2 hne
  refine ⟨s.advancing steps keep, exec_advance_start keep hb hok hne,
    accepted_of_not_fire s (i := .advance steps keep) nofun _ _ _, ?completes⟩
  rw [advanceLength_eq keep hpos (decide (0 < steps))]
  refine completes_of_leads (leads_advancing s keep hok hne) rfl fun u hu => ?_
  obtain ⟨hcfg, hpstate, hresult, hstepcount, hshiftBuf, hcmdLatch, hlines⟩ := fields_of_motorDone hu
  exact ⟨hcfg, hpstate, hresult.trans (doneResult_advance steps keep false),
    (congrArg BitVec.toNat hstepcount).trans (toNat_ofNat_natAbs hok), hshiftBuf, hcmdLatch,
    hlines.trans (linesAfter_motorDrives s.cfg 0 _ keep s.lines hpos)⟩

/-- Settles O29: the levels of each line in the schedule of |STEPS| pulses. -/
theorem advancePulseTrain : Obligations.AdvancePulseTrain := by
  intro s t steps keep hb hok hne ht n c hr
  cases ht.symm.trans (exec_advance_start keep hb hok hne)
  have hpos := Int.natAbs_pos.2 hne
  have hlength := advanceLength_eq keep hpos (decide (0 < steps)) s.cfg
  have hrun := leads_advancing s keep hok hne
  rw [State.advanceDrives, ← hlength] at hrun
  exact levelTrace_motor hlength hpos hrun hr

/-! ## HOME -/

section
variable (s : State) (keep : Bool)

/-- The pulses a HOME accepted in `s` issues, and whether it sees the endstop. -/
def State.homeCount (s : State) : Nat × Bool :=
  homePulses s.cfg (fun j => (s.inputAt (2 + s.cfg.tMen + j)).pins.endstop) 0 s.cfg.homeMaxSteps

theorem homeLength_eq (n : Nat) (dir : Bool) (c : Config) :
    homeLength c n keep = duration (motorDrives c 1 dir n keep) + 1 := by
  rw [homeLength, duration_motorDrives, homePeriod_eq]
  omega

/-- The schedule of a HOME accepted in `s`. -/
def State.homeDrives (s : State) (keep : Bool) : List Drive :=
  motorDrives s.cfg 1 (decide (s.cfg.homeDir = .pos)) s.homeCount.1 keep

theorem leads_homing :
    (s.homing keep).view.Leads (s.homing keep).pinsAt (duration (s.homeDrives keep) + 1)
      (((s.homing keep).view.pulsed s.homeCount.1 s.homeCount.2).motorDone (linesAfter s.lines (s.homeDrives keep))
        { endstopHit := s.homeCount.2 })
      (doneTrace s.lines (s.homeDrives keep)) := by
  have hkeep : (s.homing keep).view.keep = keep := keepField_layoutH keep
  have hrun := leads_home (s.homing keep).view rfl s.lines (s.homing keep).pinsAt
  rw [hkeep] at hrun
  exact hrun

end

/-- Settles O31: the run is the schedule of HOME's pulses and `done`. -/
theorem homeCompletes : Obligations.HomeCompletes := by
  intro s keep hb k
  obtain ⟨hpos, hle, -⟩ : IsPulseCount _ _ k := isPulseCount_home s.cfg _
  obtain ⟨-, -, -, -, hbudget, -⟩ := s.cfg.valid
  refine ⟨s.homing keep, exec_home_start keep hb, accepted_of_not_fire s (i := .home keep) nofun _ _ _, ?completes⟩
  rw [homeLength_eq keep k.1 (decide (s.cfg.homeDir = .pos))]
  refine completes_of_leads (leads_homing s keep) rfl fun u hu => ?_
  obtain ⟨hcfg, hpstate, hresult, hstepcount, hshiftBuf, hcmdLatch, hlines⟩ := fields_of_motorDone hu
  have hcount : (BitVec.ofNat 32 k.1).toNat = k.1 := by
    rw [BitVec.toNat_ofNat]
    exact Nat.mod_eq_of_lt (by omega)
  exact ⟨hcfg, hpstate, hresult.trans (doneResult_home keep k.2), (congrArg BitVec.toNat hstepcount).trans hcount, hshiftBuf,
    hcmdLatch, hlines.trans (linesAfter_motorDrives s.cfg 1 _ keep s.lines hpos)⟩

/-- Settles O33: the levels of each line in the schedule of HOME's pulses. -/
theorem homePulseTrain : Obligations.HomePulseTrain := by
  intro s t keep hb ht c k hr
  cases ht.symm.trans (exec_home_start keep hb)
  have hpos : 0 < k := (isPulseCount_home s.cfg _).pos
  have hlength := homeLength_eq keep k (decide (s.cfg.homeDir = .pos)) s.cfg
  have hrun := leads_homing s keep
  rw [State.homeDrives, State.homeCount, ← hlength] at hrun
  have hlevels := levelTrace_motor hlength hpos hrun hr
  rw [homePeriod_eq] at hlevels
  exact hlevels

end Sys2Proof.Machine
end

section
/-! SUPPORT. ADVANCE by opposite counts (spec/44_motor.md rule R195(2)): the sign of the latched count reaches MOTOR_DIR and nothing
else. -/

namespace Sys2Proof.Machine

/-! ## Another word latched and another direction driven -/

/-- The state with the word `w` latched and MOTOR_DIR at `d`. -/
def State.turned (w : Word) (d : Bool) (s : State) : State :=
  { s with cmdLatch := w, lines := { s.lines with motorDir := d } }

/-- The sequencer's part with the word `w` latched and MOTOR_DIR at `d`. -/
def SeqView.turned (w : Word) (d : Bool) (v : SeqView) : SeqView :=
  { v with cmdLatch := w, lines := { v.lines with motorDir := d } }

/-- Two words of one command with one KEEP and one magnitude of STEPS. -/
structure SameButSign (w w' : Word) : Prop where
  opc : opcField w' = opcField w
  keep : keepField w' = keepField w
  count : (stepsField w').toInt.natAbs = (stepsField w).toInt.natAbs

theorem sameButSign_neg {steps : Int} (keep : Bool) (hok : stepsOk steps = true) (hneg : stepsOk (-steps) = true) :
    SameButSign (encode (.advance steps keep)) (encode (.advance (-steps) keep)) where
  opc := by rw [encode, encode, opcField_layoutM, opcField_layoutM]
  keep := by rw [encode, encode, keepField_layoutM, keepField_layoutM]
  count := by rw [encode, encode, stepsField_layoutM, stepsField_layoutM, toInt_steps hok, toInt_steps hneg, Int.natAbs_neg]

/-! ## The sequencer's cycle -/

/-- A micro-op of ADVANCE reads the latched sign for MOTOR_DIR only (rule R193). -/
theorem advanceOp_turned {s : State} {w : Word} (d : Bool) (hw : SameButSign s.cmdLatch w) (q : AdvancePc) :
    ∃ d', advanceOp q (s.turned w d) = (advanceOp q s).turned w d' := by
  obtain ⟨hopc, hkeep, hcount⟩ := hw
  have hcount : (s.turned w d).latchCount = s.latchCount := hcount
  have hkeep : (s.turned w d).latchKeep = s.latchKeep := hkeep
  cases q with
  | setDir => exact ⟨(s.turned w d).latchDir, rfl⟩
  | enable | stepHigh i | disable => exact ⟨d, rfl⟩
  | stepLow i =>
    simp only [advanceOp]
    by_cases hi : i < s.latchCount
    · rw [advanceStepLowOp_next hi, advanceStepLowOp_next (hcount.symm ▸ hi)]
      exact ⟨d, rfl⟩
    · rw [advanceStepLowOp_last hi, advanceStepLowOp_last (hcount.symm ▸ hi), hcount, hkeep]
      exact ⟨d, rfl⟩
  | finish =>
    refine ⟨d, ?_⟩
    simp only [advanceOp, State.completeMotor, State.complete, State.turned, hopc]

/-- A cycle of the sequencer, while ADVANCE runs or nothing does. -/
theorem seqCycle_turned {s : State} {w : Word} (d : Bool) (hw : SameButSign s.cmdLatch w)
    (hr : s.routine = .advance ∨ s.upc = .idle) : ∃ d', seqCycle (s.turned w d) = (seqCycle s).turned w d' := by
  have hwait : (s.turned w d).waitcnt = s.waitcnt := rfl
  have hupc : (s.turned w d).upc = s.upc := rfl
  unfold seqCycle
  rw [hwait]
  split
  · exact ⟨d, rfl⟩
  · unfold microOp
    rw [hupc]
    cases hu : s.upc with
    | idle => exact ⟨d, rfl⟩
    | advance q => exact advanceOp_turned d hw q
    | powerUp | powerDown | fire | home => simp [State.routine, hu, Upc.routine] at hr

/-! ## A run -/

theorem SeqView.run_turned {w : Word} {n : Nat} : ∀ {v : SeqView} {p : Nat → Pins} (d : Bool), SameButSign v.cmdLatch w →
    (v.routine = .advance ∨ v.upc = .idle) → ∃ d', (v.turned w d).run p n = (v.run p n).turned w d' := by
  induction n with
  | zero => exact fun d _ _ => ⟨d, rfl⟩
  | succ n ih =>
    intro v p d hw hr
    let s := v.withPins (p 0)
    obtain ⟨d', hd⟩ := seqCycle_turned (s := s) d hw hr
    obtain ⟨hlatch, -, -⟩ := seqCycle_latch s
    have hroutine : (v.next (p 0)).routine = .advance ∨ (v.next (p 0)).upc = .idle := by
      obtain hadvance | hidle := hr
      · exact (seqCycle_routine s).imp (fun hsame => hsame.trans hadvance) fun ⟨hdone, _⟩ => (State.busy_eq_false _).1 hdone
      · exact .inr (SeqView.next_idle _ hidle)
    have hnext : (v.turned w d).next (p 0) = (v.next (p 0)).turned w d' := congrArg State.view hd
    rw [SeqView.run, SeqView.run, hnext]
    exact ih d' (show SameButSign (seqCycle s).cmdLatch w from hlatch ▸ hw) hroutine

/-- The run of the opposite count is that of the count with another word latched and another direction driven. -/
theorem run_advancing_neg (s : State) {steps : Int} (keep : Bool) (hok : stepsOk steps = true) (hneg : stepsOk (-steps) = true)
    (n : Nat) :
    ∃ d, (s.advancing (-steps) keep).view.run (s.advancing (-steps) keep).pinsAt n =
      ((s.advancing steps keep).view.run (s.advancing steps keep).pinsAt n).turned (encode (.advance (-steps) keep)) d :=
  SeqView.run_turned (v := (s.advancing steps keep).view) s.lines.motorDir (sameButSign_neg keep hok hneg) (.inl rfl)

/-- Settles O30: in every cycle the two runs differ in the latched word and in MOTOR_DIR only. -/
theorem advanceForwardAndBackDifferOnlyInDirection : Obligations.AdvanceForwardAndBackDifferOnlyInDirection := by
  intro s t1 t2 steps keep hb hne hok hneg h1 h2 hr j hj
  cases h1.symm.trans (exec_advance_start keep hb hok hne)
  cases h2.symm.trans (exec_advance_start keep hb hneg (Int.neg_ne_zero.2 hne))
  have hrun := leads_advancing s keep hok hne
  rw [State.advanceDrives, ← advanceLength_eq keep (Int.natAbs_pos.2 hne)] at hrun
  have hruns : (s.advancing steps keep).RunsFor j := fun k hk => hr k (Nat.lt_of_lt_of_le hk hj)
  have hbusy : ∀ k < j, ((s.advancing steps keep).view.run (s.advancing steps keep).pinsAt k).upc ≠ .idle :=
    fun k hk => hrun.busy k (Nat.lt_of_lt_of_le hk hj)
  have hbusyNeg : ∀ k < j, ((s.advancing (-steps) keep).view.run (s.advancing (-steps) keep).pinsAt k).upc ≠ .idle :=
    fun k hk => by
      obtain ⟨d, hd⟩ := run_advancing_neg s keep hok hneg k
      rw [hd]
      exact hbusy k hk
  obtain ⟨u1, hu1, hv1, -⟩ := runCycles_view hruns hbusy
  obtain ⟨u2, hu2, hv2, -⟩ := runCycles_view (s := s.advancing (-steps) keep) hruns hbusyNeg
  obtain ⟨d, hd⟩ := run_advancing_neg s keep hok hneg j
  rw [← hv1, ← hv2] at hd
  simp only [State.view, SeqView.turned, SeqView.mk.injEq] at hd
  obtain ⟨-, hlines, hpstate, hresult, hstepcount, hupc, -⟩ := hd
  refine ⟨u1, u2, hu1, hu2, ?lines, (State.busy_congr _ hupc).symm, hstepcount.symm, hresult.symm, hpstate.symm⟩
  case lines => rw [hlines]

end Sys2Proof.Machine
end

section
/-! SUPPORT. The rejection of a CMD write: what it writes, which check answers first, and which commands have a PSTATE precondition
(spec/60_exceptions.md rules R220 to R224). -/

namespace Sys2Proof.Machine

/-! ## The fields of a rejection's RESULT (rule R221) -/

@[simp] theorem resultOpc_rejectResult (w : Word) (r : Reject) : resultOpc (rejectResult w r) = opcField w := by
  unfold resultOpc rejectResult
  rw [BitVec.extractLsb'_append_eq_of_le (by decide), BitVec.extractLsb'_append_eq_of_le (by decide),
    BitVec.extractLsb'_append_eq_of_add_le (by decide)]
  exact BitVec.extractLsb'_eq_self

theorem reserved8_rejectResult (w : Word) (r : Reject) : (rejectResult w r).extractLsb' 8 24 = 0 := by
  unfold rejectResult
  simp only [BitVec.extractLsb'_append_eq_of_le, Nat.reduceLeDiff, Nat.reduceSub]
  exact BitVec.extractLsb'_eq_self

/-! ## The cycle of a rejection (rules R107, R220) -/

/-- The checks on a CMD write to an idle block fail with the code `r`: the decoder's, or the PSTATE precondition of FIRE
(rules R87, R224). -/
def State.Rejects (s : State) (w : Word) (r : Reject) : Prop :=
  decode w = .error r ∨ (r = .notPowered ∧ s.pstate ≠ .ready ∧ ∃ i, decode w = .ok i ∧ commandRoutine i = .fire)

section
variable {s t : State} {w : Word} {r : Reject} (ho : s.Offers w) (hb : s.busy = false) (h : step s = .next t)
  (hr : s.Rejects w r)
include ho hb h hr

theorem step_of_rejects : t = s.endCycle (s.rejectWith w r) := by
  obtain ⟨u, hu, herror, hok⟩ := idleCommandWriteIsAcceptedOrRejected s w ho hb
  cases h.symm.trans hu
  obtain hd | ⟨rfl, hp, i, hd, hi⟩ := hr
  · exact herror r hd
  · exact (hok i hd).1 ⟨hi, hp⟩

theorem resultErr_of_rejects : resultErr t.result = rejectCode r := by
  rw [step_of_rejects ho hb h hr]
  exact resultErr_rejectResult w r

theorem overrun_of_rejects : t.overrun = s.overrun := by
  rw [step_of_rejects ho hb h hr]
  rfl

end

/-- Settles O14: the cycle ends as the rejection leaves the block, and RESULT's fields are read off the word it writes. -/
theorem rejectionWritesResultOnly : Obligations.RejectionWritesResultOnly := by
  intro s t w r ho hb h hr
  have ht : t = s.endCycle (s.rejectWith w r) := step_of_rejects ho hb h hr
  have herr : resultErr t.result = rejectCode r := resultErr_of_rejects ho hb h hr
  subst ht
  exact ⟨rfl, hb, herr, resultOpc_rejectResult w r, reserved3_rejectResult w r, reserved8_rejectResult w r⟩

/-! ## The order of the checks (rule R223) -/

/-- Settles O15: BUSY is the overrun of rule R109; while idle each check that fails rejects the word with its own code. -/
theorem rejectionPriority : Obligations.RejectionPriority := by
  intro s t w ho h
  have rejected {r : Reject} (hb : s.busy = false) (hr : s.Rejects w r) :
      resultErr t.result = rejectCode r ∧ t.overrun = s.overrun :=
    ⟨resultErr_of_rejects ho hb h hr, overrun_of_rejects ho hb h hr⟩
  refine ⟨fun hb => ?busy, fun hb hopc => rejected hb (.inl (decode_illegal hopc)), fun hb hd => rejected hb (.inl hd),
    fun hb hopc hres _ => ?fireReserved, fun hb hfire hp => rejected hb (.inr ⟨rfl, hp, hfire⟩)⟩
  case busy =>
    cases h.symm.trans (step_of_offers_busy ho hb)
    exact ⟨s.quietCycle, step_quiet ho.1, rfl⟩
  case fireReserved =>
    have hd : decode w = .error .reservedField := (decode_opc3 hopc).trans (if_pos hres)
    exact (rejected hb (.inl hd)).1

/-! ## The PSTATE precondition (rule R224) -/

/-- NOT_POWERED is reported of FIRE only, so its RESULT is one word: ERR 3, OPC 3 (rules R86, R221, R222). -/
theorem rejectResult_fire_notPowered {i : Instr} (hi : commandRoutine i = .fire) :
    rejectResult (encode i) .notPowered = 0x00000033 := by
  unfold rejectResult
  rw [opcField_encode_fire hi]
  rfl

/-- Settles O16: FIRE outside READY is the rejection; every other command starts its routine at its first micro-op. -/
theorem fireIsRejectedUnlessReady : Obligations.FireIsRejectedUnlessReady := by
  intro s i hb hwf hp
  refine ⟨fun hi => ?fire, fun hi => ?other⟩
  case fire =>
    rw [exec_fire_unpowered hb hi hp, State.rejectWith, rejectResult_fire_notPowered hi]
  case other =>
    exact ⟨s.acceptedFirst i, exec_acceptedFirst hb hwf fun hf => absurd hf hi, acceptedFirst_busy s i, rfl⟩

end Sys2Proof.Machine
end

section
/-! SUPPORT. RST from any state and what the reset state meets (spec/70_reset_and_hazards.md rules R250, R251), and the bound every
routine's run keeps to (rule R265). -/

namespace Sys2Proof.Machine

/-! ## RST (rules R250, R251) -/

/-- A host read that reaches the block in a cycle with RST asserted returns a free draw (rule R250). -/
theorem hostReadData_of_rst {s : State} {addr size : Nat} {r : Reg} (hr : s.input.rst = true)
    (hh : s.input.host = .read addr size) (hg : regAt s.cfg addr = some r) :
    s.hostReadData = some (Config.freeRead s.cycle) := by
  rw [State.hostReadData, hh]
  simp only [hg, hr, if_true]

/-- Settles O2: the cycle ends in the reset state, whatever the block was doing, with the host's read data beside it. -/
theorem rstCycleResetsEveryElement : Obligations.RstCycleResetsEveryElement := fun s hr ha =>
  ⟨s.resetCycle, step_eq_reset ha hr, rfl, rfl, rfl, rfl, rfl, rfl, rfl, rfl, rfl, rfl, rfl, rfl, rfl, rfl,
    fun _ _ _ hh hg => hostReadData_of_rst hr hh hg⟩

/-- Settles O59: idle, with every line at its idle level and every count 0, the reset state asks nothing more of an invariant;
RESULT 0 has the form of a completion's. -/
theorem resetMeetsTheInvariants : Obligations.ResetMeetsTheInvariants := by
  intro c
  have hpower : PowerInv (State.resetWith c) := (powerInv_idle rfl).2 (.inl ⟨rfl, rfl, rfl, rfl⟩)
  have hserial : SerialInv (State.resetWith c) := (serialInv_of_not_fire (routine_ne_fire_of_idle rfl)).2 rfl
  have hmotor : MotorInv (State.resetWith c) := (motorInv_idle rfl).2 rfl
  have hresult : ResultInv (State.resetWith c) := resultInv_of_done (opc := 0) (f := {}) rfl
  obtain ⟨hindex, hcount, hwait⟩ := countersInv_resetWith c
  exact ⟨hpower, hserial, hmotor, latchInv_of_idle rfl, hindex, hcount, hwait, hresult⟩

/-! ## The end of a routine (rule R265) -/

/-- From `t`, the end of its acceptance cycle, a routine is over after at least one and at most `b` cycles, busy up to then, whatever
the host and the inputs do. -/
def State.EndsWithin (t : State) (b : Nat) : Prop :=
  t.RunsFor b → ∃ n u, 1 ≤ n ∧ n ≤ b ∧ runCycles n t = .next u ∧ u.busy = false ∧
    ∀ j < n, ∃ v, runCycles j t = .next v ∧ v.busy = true

/-- A routine whose run leads to an idle sequencer ends within any bound on the run's length. -/
theorem endsWithin_of_leads {t : State} {n b : Nat} {w : SeqView} {tr : List (Lines × Lines)}
    (h : t.view.Leads t.pinsAt (n + 1) w tr) (hw : w.upc = .idle) (hle : n + 1 ≤ b) : t.EndsWithin b := by
  intro hr
  obtain ⟨u, hu, hview, -⟩ := runCycles_view (fun j hj => hr j (by omega)) h.busy
  have hidle : u.upc = .idle := (congrArg SeqView.upc (hview.trans h.run)).trans hw
  refine ⟨n + 1, u, n.succ_pos, hle, hu, (State.busy_eq_false u).2 hidle, fun j hj => ?running⟩
  case running =>
    obtain ⟨v, hv, hviewv, -⟩ := runCycles_view (n := j) (fun k hk => hr k (by omega)) fun k hk => h.busy k (by omega)
    have hbusy : v.upc ≠ .idle := fun hi => h.busy j hj ((congrArg SeqView.upc hviewv).symm.trans hi)
    exact ⟨v, hv, (State.busy_eq_true v).2 hbusy⟩

/-! ### The power routines (rules R175, R176, R182, R183) -/

section
variable {s t : State} (hb : s.busy = false) (hp : s.pstate = .off ∨ s.pstate = .ready)
include hb hp

/-- POWER_UP takes its full length from OFF and one cycle in READY. -/
theorem powerUp_endsWithin (ht : exec .powerUp s = .next t) : t.EndsWithin (powerUpLength s.cfg) := by
  obtain hoff | hready := hp
  · let a := s.accepted .powerUp (.powerUp .setRails) s.cfg.tPu1 Acc.zero
    cases ht.symm.trans (exec_powerUp_start hb (by simp [hoff]) s.acc)
    exact endsWithin_of_leads (t := a) (leads_powerUp a.view s.lines a.pinsAt rfl) rfl le_rfl
  · let a := s.accepted .powerUp (.powerUp .finish) 0 { Acc.zero with noop := true }
    cases ht.symm.trans (exec_powerUp_noop hb hready s.acc)
    exact endsWithin_of_leads (t := a) (leads_powerUpDone a.view s.lines a.pinsAt rfl) rfl (Nat.succ_pos _)

/-- POWER_DOWN takes its full length from READY and one cycle in OFF. -/
theorem powerDown_endsWithin (ht : exec .powerDown s = .next t) : t.EndsWithin (powerDownLength s.cfg) := by
  obtain hoff | hready := hp
  · let a := s.accepted .powerDown (.powerDown .finish) 0 { Acc.zero with noop := true }
    cases ht.symm.trans (exec_powerDown_noop hb hoff s.acc)
    exact endsWithin_of_leads (t := a) (leads_powerDownDone a.view s.lines a.pinsAt rfl) rfl (Nat.succ_pos _)
  · let a := s.accepted .powerDown (.powerDown .assertReset) 0 Acc.zero
    cases ht.symm.trans (exec_powerDown_start hb (by simp [hready]) s.acc)
    exact endsWithin_of_leads (t := a) (leads_powerDown a.view s.lines a.pinsAt rfl) rfl le_rfl

end

/-! ### FIRE (rules R148, R156) -/

/-- A ready-wait of `n` samples lasts at most `n` times 1 + T_POLL cycles. -/
theorem readyWait_le (tPoll : Nat) (want : Bool) (n : Nat) : ∀ level : Nat → Bool,
    (readyWait tPoll want level n).1 ≤ n * (1 + tPoll) := by
  induction n with
  | zero => exact fun _ => Nat.zero_le _
  | succ n ih =>
    intro level
    rw [Nat.succ_mul]
    by_cases hhit : level 0 = want
    · rw [readyWait_hit n hhit]
      omega
    · have hrest := ih fun j => level (1 + tPoll + j)
      rw [readyWait_miss n hhit]
      omega

/-- FIRE, matched or not, ends within a bound on its ready-wait, the two channels and the strobe. -/
theorem fire_endsWithin {s t : State} {i : Instr} {m : Nat} (hb : s.busy = false) (hp : s.pstate = .ready) (hi : i.wf = true)
    (hfire : commandRoutine i = .fire) (hwait : (s.fireWait i).1 ≤ m) (ht : exec i s = .next t) :
    t.EndsWithin (fireLength s.cfg m) := by
  cases ht.symm.trans (exec_acceptedFirst hb hi fun _ => hp)
  refine endsWithin_of_leads (leads_fire s hi hfire) rfl ?_
  simp only [fireLength]
  omega

/-! ### ADVANCE and HOME (rules R196, R206) -/

/-- ADVANCE by 0 takes one cycle, any other its enable time and |STEPS| pulses, and one cycle more unless KEEP. -/
theorem advance_endsWithin {s t : State} {steps : Int} {keep : Bool} (hb : s.busy = false) (hok : stepsOk steps = true)
    (ht : exec (.advance steps keep) s = .next t) :
    t.EndsWithin (4 + s.cfg.tMen + steps.natAbs * (2 + s.cfg.tSth + s.cfg.tStl)) := by
  by_cases hzero : steps = 0
  · subst hzero
    let a := s.accepted (.advance 0 keep) (.advance .finish) 0 { Acc.zero with noop := true }
    cases ht.symm.trans (exec_advance_noop keep hb)
    exact endsWithin_of_leads (t := a) (leads_advanceDone a.view s.lines a.pinsAt) rfl (by omega)
  · cases ht.symm.trans (exec_advance_start keep hb hok hzero)
    refine endsWithin_of_leads (leads_advancing s keep hok hzero) rfl ?_
    rw [State.advanceDrives, duration_motorDrives, Nat.add_zero (2 + s.cfg.tSth + s.cfg.tStl)]
    split <;> omega

/-- HOME takes its enable time and at most HOME_MAX_STEPS pulses, and one cycle more unless KEEP. -/
theorem home_endsWithin {s t : State} {keep : Bool} (hb : s.busy = false) (ht : exec (.home keep) s = .next t) :
    t.EndsWithin (4 + s.cfg.tMen + s.cfg.homeMaxSteps * (3 + s.cfg.tSth + s.cfg.tStl)) := by
  cases ht.symm.trans (exec_home_start keep hb)
  refine endsWithin_of_leads (leads_homing s keep) rfl ?_
  have hcount : s.homeCount.1 ≤ s.cfg.homeMaxSteps := (isPulseCount_home s.cfg _).le
  have hpulses := Nat.mul_le_mul_right (3 + s.cfg.tSth + s.cfg.tStl) hcount
  rw [State.homeDrives, duration_motorDrives, homePeriod_eq]
  split <;> omega

/-! ### All routines -/

/-- Settles O34: command by command, the length of its run is within the bound; only the ready-wait's length and HOME's pulse count
depend on the inputs, and both are bounded by the command's or the configuration's own count. -/
theorem everyRoutineEndsWithinItsBound : Obligations.EveryRoutineEndsWithinItsBound := by
  intro s t i hb hi hfire hp ht c bound
  change t.EndsWithin bound
  cases i with
  | powerUp => exact powerUp_endsWithin hb hp ht
  | powerDown => exact powerDown_endsWithin hb hp ht
  | fireNone n => exact fire_endsWithin hb (hfire rfl) hi rfl (Nat.zero_le _) ht
  | fireHigh n => exact fire_endsWithin hb (hfire rfl) hi rfl (readyWait_le c.tPoll true n _) ht
  | fireLow n => exact fire_endsWithin hb (hfire rfl) hi rfl (readyWait_le c.tPoll false n _) ht
  | advance steps keep => exact advance_endsWithin hb hi ht
  | home keep => exact home_endsWithin hb ht

end Sys2Proof.Machine
end
